-- ==== Sys2Proof/Word.lean ====
section
/-! DEFINITION. The widths of the frame codec's data: bytes, caller argument words and the IEEE-754 data, the latter
given by their bit patterns (00_scope.md R8, R10, R12). -/

namespace Sys2Proof

/-- A byte, 0 to 255 (00_scope.md R10). -/
abbrev Byte := BitVec 8

/-- A caller argument word: `P_W` = 32 bits of two's complement (00_scope.md R8). -/
abbrev Word := BitVec 32

/-- A binary32 datum, "given by its 32-bit pattern" (00_scope.md R12). -/
abbrev Binary32 := BitVec 32

/-- A binary64 datum, given by its 64-bit pattern (00_scope.md R12; log 24). -/
abbrev Binary64 := BitVec 64

/-- A command id: `CMD_W` = 6 bits (00_scope.md R8; 30_encoding.md R118). -/
abbrev CmdId := BitVec 6

/-- A bus address: 7 bits (20_memory.md R80). -/
abbrev BusAddress := BitVec 7

end Sys2Proof
end

