-- ==== Sys2Proof/Config.lean ====
section
/-! DEFINITION. What a build fixes (00_scope.md R8): the shape of the command table (10_state.md R49 to R58) and the
open parameters: a build binds them (`Params`), and the default build has constants without a body, so that no proof can
rest on a value of them. The table's
contents stand in Machine/CommandTable.lean. -/

namespace Sys2Proof

/-- Which of the block's two bus addresses an operation goes to (10_state.md R54; 20_memory.md R82). -/
inductive BusAddr where
  | main
  | alt
deriving DecidableEq, Repr

/-- A selector: the source of one parameter slot of the frame (10_state.md R51). -/
inductive Selector where
  | z
  | a0
  | a1
  | a2
  | lo1
  | hi1
  | mode1
deriving DecidableEq, Repr

/-- The read kind `rk` (10_state.md R52). -/
inductive ReadKind where
  | none
  | byte
  | block
deriving DecidableEq, Repr

/-- The settle delay `d1`: a constant in milliseconds, or the token `MON` (10_state.md R56). -/
inductive Settle where
  | ms (d : Nat)
  | mon
deriving DecidableEq, Repr

/-- The decode format `fmt` (10_state.md R58). -/
inductive Format where
  | none
  | byte
  | u16be
  | u16le
  | acc3
  | dht
  | therm
  | ver
  | raw
  | ir
  | sent2
  | sent3
  | sent4
deriving DecidableEq, Repr

/-- One entry of the lookup mux, `CT[c]` (10_state.md R49). `disc`, `raddr`, `rlen` and `d2` carry a meaning only for
the read kinds that R53 to R57 name; the other rows hold false, `main`, 0 and 0 there (log 17). -/
structure CtEntry where
  opc : Byte
  s1 : Selector
  s2 : Selector
  s3 : Selector
  rk : ReadKind
  disc : Bool
  raddr : BusAddr
  rlen : BitVec 5
  d1 : Settle
  d2 : Nat
  fmt : Format
deriving DecidableEq, Repr

/-- A command table, indexed by command id (10_state.md R49). It is configuration: an argument of the engine's
operations and of the build of a machine, and no step changes it. -/
abbrev CommandTable := List CtEntry

/-- The two B-coefficients of the thermistor (00_scope.md R9). -/
inductive BCoeff where
  | b3975
  | b4250
deriving DecidableEq, Repr

/-- The type of `THERM_FN(a, B)`: a binary64 for an analog value and a B-coefficient (00_scope.md R8; 41_gpio.md R226). -/
abbrev ThermFn := Nat → BCoeff → Binary64

/-- What a build binds, "as arguments" of the model: the command table, the two bus addresses and `THERM_FN`
(92_eei_decisions.md, open parameters; 70_reset_and_hazards.md R394). -/
structure Params where
  /-- `CT`. -/
  table : CommandTable
  /-- `ADDR_MAIN`. -/
  addrMain : BusAddress
  /-- `ADDR_ALT`. -/
  addrAlt : BusAddress
  /-- `THERM_FN`. -/
  thermFn : ThermFn

/-- `ADDR_MAIN`, an OPEN parameter (00_scope.md R8; 92_eei_decisions.md D5; log 7). -/
opaque Config.addrMain : BusAddress

/-- `ADDR_ALT`, an OPEN parameter (00_scope.md R8; 92_eei_decisions.md D5; log 7). -/
opaque Config.addrAlt : BusAddress

/-- `THERM_FN(a, B)` of the default build, a configuration field that returns a binary64 (00_scope.md R8; 41_gpio.md R226;
log 8). The engine applies it only to analog values 1 to 1022 (40_core.md R191). -/
opaque Config.thermFn : ThermFn

/-- `RESP_CAP`, the capacity of the response buffer (00_scope.md R8). -/
def Config.respCap : Nat := 21

/-- `N_CMD`, the number of valid command ids (00_scope.md R8). -/
def Config.nCmd : Nat := 45

end Sys2Proof
end

