-- ==== Sys2Proof/Machine/CommandTable.lean ====
section
/-! DEFINITION. The command-to-opcode lookup mux: the default command table (30_encoding.md R120), its lookup by
command id (10_state.md R49), and the check a build's table must pass (10_state.md R59, R50). The opcodes other than 1
and 56 are the spec's defaults from general knowledge (30_encoding.md R119; log 6). -/

namespace Sys2Proof.Machine

/-- The row of a write-only command: no read, so `disc`, `raddr`, `rlen` carry no meaning (10_state.md R52 to R57). -/
def writeRow (opc : Byte) (s1 s2 s3 : Selector) (d1 : Settle) : CtEntry :=
  { opc, s1, s2, s3, rk := .none, disc := false, raddr := .main, rlen := 0, d1, d2 := 0, fmt := .none }

/-- The row of a command that reads one byte (10_state.md R52). -/
def byteRow (opc : Byte) (s1 s2 s3 : Selector) (d1 : Nat) : CtEntry :=
  { opc, s1, s2, s3, rk := .byte, disc := false, raddr := .main, rlen := 0, d1 := .ms d1, d2 := 0, fmt := .byte }

/-- The row of a command that reads a block (10_state.md R52 to R57). -/
def blockRow (opc : Byte) (s1 s2 s3 : Selector) (disc : Bool) (raddr : BusAddr) (rlen : BitVec 5) (d1 d2 : Nat)
    (fmt : Format) : CtEntry :=
  { opc, s1, s2, s3, rk := .block, disc, raddr, rlen, d1 := .ms d1, d2, fmt }

/-- Digital and analog GPIO commands and the thermistor conversion (41_gpio.md): ids 0 to 5 of 30_encoding.md R120. -/
def gpioRows : CommandTable :=
  [ byteRow 1 .a0 .z .z 100,
    writeRow 2 .a0 .a1 .z (.ms 0),
    blockRow 3 .a0 .z .z true .main 5 100 100 .u16be,
    writeRow 4 .a0 .a1 .z (.ms 0),
    writeRow 5 .a0 .mode1 .z (.ms 0),
    blockRow 3 .a0 .z .z true .main 5 100 100 .therm ]

/-- The sensor read commands (42_sensors.md): ids 6 to 10 of 30_encoding.md R120. -/
def sensorsRows : CommandTable :=
  [ blockRow 7 .a0 .z .z true .main 5 200 0 .u16be,
    blockRow 8 .z .z .z true .main 5 100 0 .ver,
    blockRow 20 .z .z .z false .main 5 100 0 .acc3,
    blockRow 30 .z .z .z true .main 5 100 0 .raw,
    blockRow 40 .a0 .a1 .z false .main 9 600 100 .dht ]

/-- The LED bar commands (43_ledbar.md): ids 11 to 17 of 30_encoding.md R120. -/
def ledBarRows : CommandTable :=
  [ writeRow 50 .a0 .a1 .z (.ms 0),
    writeRow 51 .a0 .a1 .z (.ms 0),
    writeRow 52 .a0 .a1 .z (.ms 0),
    writeRow 53 .a0 .a1 .a2 (.ms 0),
    writeRow 54 .a0 .a1 .z (.ms 0),
    writeRow 55 .a0 .lo1 .hi1 (.ms 0),
    blockRow 56 .a0 .z .z false .alt 5 200 0 .u16le ]

/-- The four-digit display commands (44_four_digit.md): ids 18 to 27 of 30_encoding.md R120. -/
def fourDigitRows : CommandTable :=
  [ writeRow 70 .a0 .z .z (.ms 0),
    writeRow 71 .a0 .a1 .z (.ms 50),
    writeRow 72 .a0 .lo1 .hi1 (.ms 50),
    writeRow 73 .a0 .lo1 .hi1 (.ms 50),
    writeRow 74 .a0 .a1 .a2 (.ms 50),
    writeRow 75 .a0 .a1 .a2 (.ms 50),
    writeRow 76 .a0 .a1 .a2 (.ms 50),
    writeRow 77 .a0 .a1 .a2 .mon,
    writeRow 78 .a0 .z .z (.ms 50),
    writeRow 79 .a0 .z .z (.ms 50) ]

/-- The chainable RGB LED commands (45_rgb_led.md): ids 28 to 33 of 30_encoding.md R120. -/
def rgbLedRows : CommandTable :=
  [ writeRow 90 .a0 .a1 .a2 (.ms 50),
    writeRow 91 .a0 .a1 .z (.ms 50),
    writeRow 92 .a0 .a1 .a2 (.ms 50),
    writeRow 93 .a0 .a1 .a2 (.ms 50),
    writeRow 94 .a0 .a1 .a2 (.ms 50),
    writeRow 95 .a0 .a1 .a2 (.ms 50) ]

/-- The IR, dust, encoder and flow sensor commands (46_ir_dust_encoder_flow.md): ids 34 to 44 of 30_encoding.md R120. -/
def irDustEncoderFlowRows : CommandTable :=
  [ blockRow 21 .z .z .z false .main 21 100 0 .ir,
    writeRow 22 .a0 .z .z (.ms 0),
    blockRow 10 .z .z .z false .main 5 200 0 .sent4,
    writeRow 14 .z .z .z (.ms 200),
    writeRow 15 .z .z .z (.ms 200),
    blockRow 11 .z .z .z false .main 5 200 0 .sent2,
    writeRow 16 .z .z .z (.ms 200),
    writeRow 17 .z .z .z (.ms 200),
    blockRow 12 .z .z .z false .main 5 200 0 .sent3,
    writeRow 18 .z .z .z (.ms 200),
    writeRow 13 .z .z .z (.ms 200) ]

/-- The default command table `CT` (30_encoding.md R120), indexed by command id. -/
def commandTable : CommandTable :=
  gpioRows ++ sensorsRows ++ ledBarRows ++ fourDigitRows ++ rgbLedRows ++ irDustEncoderFlowRows

/-- The parameters of the default build: the default table, and the open parameters left open, each a constant of any value
(00_scope.md R8; log 6, log 7, log 8). -/
def defaultParams : Params :=
  { table := commandTable, addrMain := Config.addrMain, addrAlt := Config.addrAlt, thermFn := Config.thermFn }

/-- The mux: the entry of command id `c`, if `c` names a command (10_state.md R49, R59). -/
def lookup (T : CommandTable) (c : CmdId) : Option CtEntry :=
  T[c.toNat]?

/-- The constraints of 10_state.md R59 on one entry (`opc` is a byte by its type). R55 gives `rlen` the range 1 to 21, and
R59's list bounds it above alone: that a block row with `rlen = 0` passes the check is the model's DESIGN CHOICE (log 27).
40_core.md R187 says that "every format's `m ≤ rlen`", and R59's list bounds neither a block row's `rlen` below by its format's need
nor its `fmt`: that a block row with a smaller `rlen`, or with `F_NONE` or `F_BYTE`, passes the check is the model's DESIGN CHOICE
(log 29; what `F_BYTE` then decodes: log 30). -/
def entryOk (e : CtEntry) : Bool :=
  decide (e.rlen.toNat ≤ Config.respCap) &&
  (e.rk != .none || (e.fmt == .none && e.d2 == 0)) &&
  (e.rk != .byte || e.fmt == .byte) &&
  (e.raddr != .alt || e.rk == .block)

/-- "the two opcodes fixed by the document keep their values": 1 for id 0 and 56 for id 17 (10_state.md R50, R59). -/
def fixedOpcodesOk (T : CommandTable) : Bool :=
  (T[0]?.map (·.opc) == some 1) && (T[17]?.map (·.opc) == some 56)

/-- The constraints of 10_state.md R59 on a table: one entry for each of the `N_CMD` ids (R49), each entry legal, and the
two fixed opcodes. R50 says that opcodes are distinct within a table, and R59's list leaves it out: that a table whose
opcodes collide, or whose `THERM_READ` and `ANALOG_READ` differ, passes the check is the model's DESIGN CHOICE (log 26). -/
def tableOk (T : CommandTable) : Bool :=
  (T.length == Config.nCmd) && T.all entryOk && fixedOpcodesOk T

/-- The check of a build's table, which `build` binds: "a table that violates a constraint is refused by the model at configuration time"
(10_state.md R59; 70_reset_and_hazards.md R394; 93_implementation_defined.md U5). -/
def configure (T : CommandTable) : Option CommandTable :=
  if tableOk T then some T else none

/-- "Within one table, distinct commands have distinct opcodes, except `THERM_READ`, which shares `ANALOG_READ`'s
opcode" (10_state.md R50): id 5 is `THERM_READ` and id 2 is `ANALOG_READ`. No part of the check (log 26). -/
def opcodesDistinct (T : CommandTable) : Bool :=
  ((T.eraseIdx 5).map (·.opc)).Nodup && (T[5]?.map (·.opc) == T[2]?.map (·.opc))

end Sys2Proof.Machine
end

