-- ==== Sys2Proof/Machine/Operands.lean ====
section
/-! DEFINITION. Operand assembly: the command frame and how its bytes are made from a command's arguments
(30_encoding.md R110 to R116; 10_state.md R51). Truncation, never clamping (90_conflicts.md C6). -/

namespace Sys2Proof.Machine

/-- A command frame, "exactly 4 bytes": the opcode and three parameter slots (30_encoding.md R110). -/
structure Frame where
  opcode : Byte
  p1 : Byte
  p2 : Byte
  p3 : Byte
deriving DecidableEq, Repr

/-- `lo8(v) = v[7:0]`, of the two's-complement pattern (00_scope.md R10; 40_core.md R196). -/
def lo8 (v : Word) : Byte := v.extractLsb' 0 8

/-- `hi8(v) = v[15:8]` (00_scope.md R10; 40_core.md R196). -/
def hi8 (v : Word) : Byte := v.extractLsb' 8 8

/-- `zext_8(v[0])`: bit 0 of the argument, the other bits 0 (30_encoding.md R113, R115). -/
def modeBit (v : Word) : Byte := (v.extractLsb' 0 1).setWidth 8

/-- Selector evaluation (30_encoding.md R113; 10_state.md R51). -/
def sel (x : Selector) (a0 a1 a2 : Word) : Byte :=
  match x with
  | .z => 0
  | .a0 => lo8 a0
  | .a1 => lo8 a1
  | .a2 => lo8 a2
  | .lo1 => lo8 a1
  | .hi1 => hi8 a1
  | .mode1 => modeBit a1

/-- The encoder: `[ e.opc, sel(e.s1), sel(e.s2), sel(e.s3) ]` (30_encoding.md R112). It raises no error. -/
def encodeFrame (e : CtEntry) (a0 a1 a2 : Word) : Frame :=
  ⟨e.opc, sel e.s1 a0 a1 a2, sel e.s2 a0 a1 a2, sel e.s3 a0 a1 a2⟩

/-- The thermistor's B-coefficient: 4250 for a selector whose low byte is 1 or 2, else 3975 (41_gpio.md R227). -/
def bsel (m : Word) : BCoeff :=
  if lo8 m = 1 ∨ lo8 m = 2 then .b4250 else .b3975

end Sys2Proof.Machine
end

