-- ==== Sys2Proof/Syntax.lean ====
section
/-! DEFINITION. The commands of the frame codec, one constructor per row of spec/opcode_table.json (30_encoding.md
R118, R120). A command carries the three argument words that the caller presents with it (10_state.md R34, R44);
the words `u0`, `u1`, `u2` are those the command does not use: they are latched and have no effect (R34; log 10). -/

namespace Sys2Proof

/-- A command with its three argument words `a0`, `a1`, `a2`, in order. -/
inductive Instr where
  /-- `digital_read`, id 0 (41_gpio.md R220). -/
  | digitalRead (pin u1 u2 : Word)
  /-- `digital_write`, id 1 (41_gpio.md R221). -/
  | digitalWrite (pin value u2 : Word)
  /-- `analog_read`, id 2 (41_gpio.md R222). -/
  | analogRead (pin u1 u2 : Word)
  /-- `analog_write`, id 3 (41_gpio.md R223). -/
  | analogWrite (pin value u2 : Word)
  /-- `pin_mode`, id 4 (41_gpio.md R224). -/
  | pinMode (pin mode u2 : Word)
  /-- `therm_read`, id 5 (41_gpio.md R225). -/
  | thermRead (pin model u2 : Word)
  /-- `ultrasonic_read`, id 6 (42_sensors.md R240). -/
  | ultrasonicRead (pin u1 u2 : Word)
  /-- `version`, id 7 (42_sensors.md R241). -/
  | version (u0 u1 u2 : Word)
  /-- `acc_xyz`, id 8 (42_sensors.md R242). -/
  | accXyz (u0 u1 u2 : Word)
  /-- `rtc_get_time`, id 9 (42_sensors.md R243). -/
  | rtcGetTime (u0 u1 u2 : Word)
  /-- `dht_read`, id 10 (42_sensors.md R244). -/
  | dhtRead (pin moduleType u2 : Word)
  /-- `ledbar_init`, id 11 (43_ledbar.md R260). -/
  | ledbarInit (pin orientation u2 : Word)
  /-- `ledbar_orient`, id 12 (43_ledbar.md R261). -/
  | ledbarOrient (pin orientation u2 : Word)
  /-- `ledbar_level`, id 13 (43_ledbar.md R262). -/
  | ledbarLevel (pin level u2 : Word)
  /-- `ledbar_set_one`, id 14 (43_ledbar.md R263). -/
  | ledbarSetOne (pin led state : Word)
  /-- `ledbar_toggle_one`, id 15 (43_ledbar.md R264). -/
  | ledbarToggleOne (pin led u2 : Word)
  /-- `ledbar_set`, id 16 (43_ledbar.md R265). -/
  | ledbarSet (pin mask u2 : Word)
  /-- `ledbar_get`, id 17 (43_ledbar.md R266). -/
  | ledbarGet (pin u1 u2 : Word)
  /-- `fd_init`, id 18 (44_four_digit.md R280). -/
  | fdInit (pin u1 u2 : Word)
  /-- `fd_brightness`, id 19 (44_four_digit.md R281). -/
  | fdBrightness (pin brightness u2 : Word)
  /-- `fd_value`, id 20 (44_four_digit.md R282). -/
  | fdValue (pin value u2 : Word)
  /-- `fd_value_zeros`, id 21 (44_four_digit.md R283). -/
  | fdValueZeros (pin value u2 : Word)
  /-- `fd_digit`, id 22 (44_four_digit.md R284). -/
  | fdDigit (pin segment value : Word)
  /-- `fd_segment`, id 23 (44_four_digit.md R285). -/
  | fdSegment (pin segment leds : Word)
  /-- `fd_score`, id 24 (44_four_digit.md R286). -/
  | fdScore (pin left right : Word)
  /-- `fd_monitor`, id 25 (44_four_digit.md R287). -/
  | fdMonitor (pin analogPin duration : Word)
  /-- `fd_all_on`, id 26 (44_four_digit.md R288). -/
  | fdAllOn (pin u1 u2 : Word)
  /-- `fd_all_off`, id 27 (44_four_digit.md R289). -/
  | fdAllOff (pin u1 u2 : Word)
  /-- `rgb_store_color`, id 28 (45_rgb_led.md R300). -/
  | rgbStoreColor (red green blue : Word)
  /-- `rgb_init`, id 29 (45_rgb_led.md R301). -/
  | rgbInit (pin numLeds u2 : Word)
  /-- `rgb_test`, id 30 (45_rgb_led.md R302). -/
  | rgbTest (pin numLeds color : Word)
  /-- `rgb_pattern`, id 31 (45_rgb_led.md R303). -/
  | rgbPattern (pin pattern whichLed : Word)
  /-- `rgb_modulo`, id 32 (45_rgb_led.md R304). -/
  | rgbModulo (pin offset divisor : Word)
  /-- `rgb_level`, id 33 (45_rgb_led.md R305). -/
  | rgbLevel (pin level reverse : Word)
  /-- `ir_read`, id 34 (46_ir_dust_encoder_flow.md R320). -/
  | irRead (u0 u1 u2 : Word)
  /-- `ir_recv_pin`, id 35 (46_ir_dust_encoder_flow.md R321). -/
  | irRecvPin (pin u1 u2 : Word)
  /-- `dust_read`, id 36 (46_ir_dust_encoder_flow.md R322). -/
  | dustRead (u0 u1 u2 : Word)
  /-- `dust_en`, id 37 (46_ir_dust_encoder_flow.md R323). -/
  | dustEn (u0 u1 u2 : Word)
  /-- `dust_dis`, id 38 (46_ir_dust_encoder_flow.md R324). -/
  | dustDis (u0 u1 u2 : Word)
  /-- `enc_read`, id 39 (46_ir_dust_encoder_flow.md R325). -/
  | encRead (u0 u1 u2 : Word)
  /-- `enc_en`, id 40 (46_ir_dust_encoder_flow.md R326). -/
  | encEn (u0 u1 u2 : Word)
  /-- `enc_dis`, id 41 (46_ir_dust_encoder_flow.md R327). -/
  | encDis (u0 u1 u2 : Word)
  /-- `flow_read`, id 42 (46_ir_dust_encoder_flow.md R328). -/
  | flowRead (u0 u1 u2 : Word)
  /-- `flow_en`, id 43 (46_ir_dust_encoder_flow.md R329). -/
  | flowEn (u0 u1 u2 : Word)
  /-- `flow_dis`, id 44 (46_ir_dust_encoder_flow.md R330). -/
  | flowDis (u0 u1 u2 : Word)
deriving DecidableEq, Repr

end Sys2Proof
end

