-- ==== Sys2Proof/WellFormed.lean ====
section
/-! DEFINITION. Which commands are written as 30_encoding.md R126 has them: no operand beyond the command's own, and
each operand within what its slot of the frame holds. It is no precondition of execution: the engine "checks no argument
range" (70_reset_and_hazards.md R401), and a command outside it runs with its arguments truncated. It is the range on
which the frame says everything about the command (log 10): the third operand of the `LPLH` commands, which R126 counts
and which no slot of the frame carries, is 0 there. -/

namespace Sys2Proof

/-- The word fits an 8-bit slot (30_encoding.md R113). -/
def fitsByte (a : Word) : Bool := decide (a.toNat < 256)

/-- The word fits two slots (30_encoding.md R114). -/
def fitsPair (a : Word) : Bool := decide (a.toNat < 65536)

/-- The word is a mode: INPUT = 0 or OUTPUT = 1 (30_encoding.md R115). -/
def isMode (a : Word) : Bool := decide (a.toNat < 2)

/-- The word is an omitted operand, which is 0 (30_encoding.md R126). -/
def isAbsent (a : Word) : Bool := decide (a = 0)

/-- A command within the operand counts and slot widths of its layout (30_encoding.md R116, R126). The model selector of
`therm_read` is not sent, and every selector is legal (41_gpio.md R225, R227). -/
def Instr.wellFormed (i : Instr) : Bool :=
  match i with
  | .digitalRead pin u1 u2 => fitsByte pin && isAbsent u1 && isAbsent u2
  | .digitalWrite pin value u2 => fitsByte pin && fitsByte value && isAbsent u2
  | .analogRead pin u1 u2 => fitsByte pin && isAbsent u1 && isAbsent u2
  | .analogWrite pin value u2 => fitsByte pin && fitsByte value && isAbsent u2
  | .pinMode pin mode u2 => fitsByte pin && isMode mode && isAbsent u2
  | .thermRead pin _ u2 => fitsByte pin && isAbsent u2
  | .ultrasonicRead pin u1 u2 => fitsByte pin && isAbsent u1 && isAbsent u2
  | .version u0 u1 u2 => isAbsent u0 && isAbsent u1 && isAbsent u2
  | .accXyz u0 u1 u2 => isAbsent u0 && isAbsent u1 && isAbsent u2
  | .rtcGetTime u0 u1 u2 => isAbsent u0 && isAbsent u1 && isAbsent u2
  | .dhtRead pin moduleType u2 => fitsByte pin && fitsByte moduleType && isAbsent u2
  | .ledbarInit pin orientation u2 => fitsByte pin && fitsByte orientation && isAbsent u2
  | .ledbarOrient pin orientation u2 => fitsByte pin && fitsByte orientation && isAbsent u2
  | .ledbarLevel pin level u2 => fitsByte pin && fitsByte level && isAbsent u2
  | .ledbarSetOne pin led state => fitsByte pin && fitsByte led && fitsByte state
  | .ledbarToggleOne pin led u2 => fitsByte pin && fitsByte led && isAbsent u2
  | .ledbarSet pin mask u2 => fitsByte pin && fitsPair mask && isAbsent u2
  | .ledbarGet pin u1 u2 => fitsByte pin && isAbsent u1 && isAbsent u2
  | .fdInit pin u1 u2 => fitsByte pin && isAbsent u1 && isAbsent u2
  | .fdBrightness pin brightness u2 => fitsByte pin && fitsByte brightness && isAbsent u2
  | .fdValue pin value u2 => fitsByte pin && fitsPair value && isAbsent u2
  | .fdValueZeros pin value u2 => fitsByte pin && fitsPair value && isAbsent u2
  | .fdDigit pin segment value => fitsByte pin && fitsByte segment && fitsByte value
  | .fdSegment pin segment leds => fitsByte pin && fitsByte segment && fitsByte leds
  | .fdScore pin left right => fitsByte pin && fitsByte left && fitsByte right
  | .fdMonitor pin analogPin duration => fitsByte pin && fitsByte analogPin && fitsByte duration
  | .fdAllOn pin u1 u2 => fitsByte pin && isAbsent u1 && isAbsent u2
  | .fdAllOff pin u1 u2 => fitsByte pin && isAbsent u1 && isAbsent u2
  | .rgbStoreColor red green blue => fitsByte red && fitsByte green && fitsByte blue
  | .rgbInit pin numLeds u2 => fitsByte pin && fitsByte numLeds && isAbsent u2
  | .rgbTest pin numLeds color => fitsByte pin && fitsByte numLeds && fitsByte color
  | .rgbPattern pin pattern whichLed => fitsByte pin && fitsByte pattern && fitsByte whichLed
  | .rgbModulo pin offset divisor => fitsByte pin && fitsByte offset && fitsByte divisor
  | .rgbLevel pin level reverse => fitsByte pin && fitsByte level && fitsByte reverse
  | .irRead u0 u1 u2 => isAbsent u0 && isAbsent u1 && isAbsent u2
  | .irRecvPin pin u1 u2 => fitsByte pin && isAbsent u1 && isAbsent u2
  | .dustRead u0 u1 u2 => isAbsent u0 && isAbsent u1 && isAbsent u2
  | .dustEn u0 u1 u2 => isAbsent u0 && isAbsent u1 && isAbsent u2
  | .dustDis u0 u1 u2 => isAbsent u0 && isAbsent u1 && isAbsent u2
  | .encRead u0 u1 u2 => isAbsent u0 && isAbsent u1 && isAbsent u2
  | .encEn u0 u1 u2 => isAbsent u0 && isAbsent u1 && isAbsent u2
  | .encDis u0 u1 u2 => isAbsent u0 && isAbsent u1 && isAbsent u2
  | .flowRead u0 u1 u2 => isAbsent u0 && isAbsent u1 && isAbsent u2
  | .flowEn u0 u1 u2 => isAbsent u0 && isAbsent u1 && isAbsent u2
  | .flowDis u0 u1 u2 => isAbsent u0 && isAbsent u1 && isAbsent u2

end Sys2Proof
end

