-- ==== Sys2Proof/Decode.lean ====
section
/-! DEFINITION. From requests and frames to commands, and back.

A command comes to the engine as a request: a command id and three argument words (10_state.md R44; 30_encoding.md
R118). `commandOf` reads a request and `Instr.id`, `Instr.arg0` to `Instr.arg2` write one.

A frame is what the engine sends on the bus (30_encoding.md R110). `encode` writes a command's frame, and `decode`
reads a frame, total on every list of bytes and rejecting by name; it maps opcode 3 to `analog_read`, which shares its
frame with `therm_read` (30_encoding.md R122; log 9). -/

namespace Sys2Proof

open Sys2Proof.Machine

/-- Why four bytes are no frame of the default table. -/
inductive DecodeError where
  /-- Not exactly 4 bytes: "one frame length and one format" (30_encoding.md R110). -/
  | badLength
  /-- No command of the table has this opcode (30_encoding.md R121, R123). -/
  | unknownOpcode
  /-- A slot whose selector is `Z` holds a nonzero byte (30_encoding.md R123), or the mode slot of `pin_mode` has one of its bits 7
  to 1 set (R115). -/
  | nonzeroPadding
deriving DecidableEq, Repr

/-- A word whose low 8 bits are the byte and whose other bits are 0. -/
def widen (b : Byte) : Word := b.setWidth 32

/-- A word whose low 16 bits are `lo` and `hi`, low byte first (30_encoding.md R114). -/
def widen16 (lo hi : Byte) : Word := (hi ++ lo).setWidth 32

/-- A frame of layout `L0`: `[opc, 0, 0, 0]` (30_encoding.md R116). -/
def readL0 (k : Word → Word → Word → Instr) (f : Frame) : Except DecodeError Instr :=
  if f.p1 = 0 ∧ f.p2 = 0 ∧ f.p3 = 0 then .ok (k 0 0 0) else .error .nonzeroPadding

/-- A frame of layout `LP`: `[opc, a0, 0, 0]` (30_encoding.md R116). -/
def readLP (k : Word → Word → Word → Instr) (f : Frame) : Except DecodeError Instr :=
  if f.p2 = 0 ∧ f.p3 = 0 then .ok (k (widen f.p1) 0 0) else .error .nonzeroPadding

/-- A frame of layout `LPV`: `[opc, a0, a1, 0]` (30_encoding.md R116). -/
def readLPV (k : Word → Word → Word → Instr) (f : Frame) : Except DecodeError Instr :=
  if f.p3 = 0 then .ok (k (widen f.p1) (widen f.p2) 0) else .error .nonzeroPadding

/-- A frame of layout `LPVW`: `[opc, a0, a1, a2]` (30_encoding.md R116). -/
def readLPVW (k : Word → Word → Word → Instr) (f : Frame) : Except DecodeError Instr :=
  .ok (k (widen f.p1) (widen f.p2) (widen f.p3))

/-- A frame of layout `LPLH`: `[opc, a0, lo8(a1), hi8(a1)]` (30_encoding.md R114, R116). -/
def readLPLH (k : Word → Word → Word → Instr) (f : Frame) : Except DecodeError Instr :=
  .ok (k (widen f.p1) (widen16 f.p2 f.p3) 0)

/-- A frame of layout `LPM`: `[opc, a0, a1[0], 0]`, the other bits of slot 2 zero (30_encoding.md R115, R116). -/
def readLPM (k : Word → Word → Word → Instr) (f : Frame) : Except DecodeError Instr :=
  if f.p2.toNat < 2 ∧ f.p3 = 0 then .ok (k (widen f.p1) (widen f.p2) 0) else .error .nonzeroPadding

/-- The command a frame names, by its opcode alone (30_encoding.md R122), with the slots read by the layout of
the command (spec/opcode_table.json). -/
def decodeFrame (f : Frame) : Except DecodeError Instr :=
  match f.opcode.toNat with
  | 1 => readLP .digitalRead f
  | 2 => readLPV .digitalWrite f
  | 3 => readLP .analogRead f
  | 4 => readLPV .analogWrite f
  | 5 => readLPM .pinMode f
  | 7 => readLP .ultrasonicRead f
  | 8 => readL0 .version f
  | 10 => readL0 .dustRead f
  | 11 => readL0 .encRead f
  | 12 => readL0 .flowRead f
  | 13 => readL0 .flowDis f
  | 14 => readL0 .dustEn f
  | 15 => readL0 .dustDis f
  | 16 => readL0 .encEn f
  | 17 => readL0 .encDis f
  | 18 => readL0 .flowEn f
  | 20 => readL0 .accXyz f
  | 21 => readL0 .irRead f
  | 22 => readLP .irRecvPin f
  | 30 => readL0 .rtcGetTime f
  | 40 => readLPV .dhtRead f
  | 50 => readLPV .ledbarInit f
  | 51 => readLPV .ledbarOrient f
  | 52 => readLPV .ledbarLevel f
  | 53 => readLPVW .ledbarSetOne f
  | 54 => readLPV .ledbarToggleOne f
  | 55 => readLPLH .ledbarSet f
  | 56 => readLP .ledbarGet f
  | 70 => readLP .fdInit f
  | 71 => readLPV .fdBrightness f
  | 72 => readLPLH .fdValue f
  | 73 => readLPLH .fdValueZeros f
  | 74 => readLPVW .fdDigit f
  | 75 => readLPVW .fdSegment f
  | 76 => readLPVW .fdScore f
  | 77 => readLPVW .fdMonitor f
  | 78 => readLP .fdAllOn f
  | 79 => readLP .fdAllOff f
  | 90 => readLPVW .rgbStoreColor f
  | 91 => readLPV .rgbInit f
  | 92 => readLPVW .rgbTest f
  | 93 => readLPVW .rgbPattern f
  | 94 => readLPVW .rgbModulo f
  | 95 => readLPVW .rgbLevel f
  | _ => .error .unknownOpcode

/-- The command that a list of bytes is the frame of, the first byte the opcode (20_memory.md R83). -/
def decode (bs : List Byte) : Except DecodeError Instr :=
  match bs with
  | [b0, b1, b2, b3] => decodeFrame ⟨b0, b1, b2, b3⟩
  | _ => .error .badLength

/-- The frame of a command, written from its row's `encoding` in spec/opcode_table.json (30_encoding.md R111, R116). -/
def encode (i : Instr) : Frame :=
  match i with
  | .digitalRead pin _ _ => ⟨1, lo8 pin, 0, 0⟩
  | .digitalWrite pin value _ => ⟨2, lo8 pin, lo8 value, 0⟩
  | .analogRead pin _ _ => ⟨3, lo8 pin, 0, 0⟩
  | .analogWrite pin value _ => ⟨4, lo8 pin, lo8 value, 0⟩
  | .pinMode pin mode _ => ⟨5, lo8 pin, modeBit mode, 0⟩
  | .thermRead pin _ _ => ⟨3, lo8 pin, 0, 0⟩
  | .ultrasonicRead pin _ _ => ⟨7, lo8 pin, 0, 0⟩
  | .version _ _ _ => ⟨8, 0, 0, 0⟩
  | .accXyz _ _ _ => ⟨20, 0, 0, 0⟩
  | .rtcGetTime _ _ _ => ⟨30, 0, 0, 0⟩
  | .dhtRead pin moduleType _ => ⟨40, lo8 pin, lo8 moduleType, 0⟩
  | .ledbarInit pin orientation _ => ⟨50, lo8 pin, lo8 orientation, 0⟩
  | .ledbarOrient pin orientation _ => ⟨51, lo8 pin, lo8 orientation, 0⟩
  | .ledbarLevel pin level _ => ⟨52, lo8 pin, lo8 level, 0⟩
  | .ledbarSetOne pin led state => ⟨53, lo8 pin, lo8 led, lo8 state⟩
  | .ledbarToggleOne pin led _ => ⟨54, lo8 pin, lo8 led, 0⟩
  | .ledbarSet pin mask _ => ⟨55, lo8 pin, lo8 mask, hi8 mask⟩
  | .ledbarGet pin _ _ => ⟨56, lo8 pin, 0, 0⟩
  | .fdInit pin _ _ => ⟨70, lo8 pin, 0, 0⟩
  | .fdBrightness pin brightness _ => ⟨71, lo8 pin, lo8 brightness, 0⟩
  | .fdValue pin value _ => ⟨72, lo8 pin, lo8 value, hi8 value⟩
  | .fdValueZeros pin value _ => ⟨73, lo8 pin, lo8 value, hi8 value⟩
  | .fdDigit pin segment value => ⟨74, lo8 pin, lo8 segment, lo8 value⟩
  | .fdSegment pin segment leds => ⟨75, lo8 pin, lo8 segment, lo8 leds⟩
  | .fdScore pin left right => ⟨76, lo8 pin, lo8 left, lo8 right⟩
  | .fdMonitor pin analogPin duration => ⟨77, lo8 pin, lo8 analogPin, lo8 duration⟩
  | .fdAllOn pin _ _ => ⟨78, lo8 pin, 0, 0⟩
  | .fdAllOff pin _ _ => ⟨79, lo8 pin, 0, 0⟩
  | .rgbStoreColor red green blue => ⟨90, lo8 red, lo8 green, lo8 blue⟩
  | .rgbInit pin numLeds _ => ⟨91, lo8 pin, lo8 numLeds, 0⟩
  | .rgbTest pin numLeds color => ⟨92, lo8 pin, lo8 numLeds, lo8 color⟩
  | .rgbPattern pin pattern whichLed => ⟨93, lo8 pin, lo8 pattern, lo8 whichLed⟩
  | .rgbModulo pin offset divisor => ⟨94, lo8 pin, lo8 offset, lo8 divisor⟩
  | .rgbLevel pin level reverse => ⟨95, lo8 pin, lo8 level, lo8 reverse⟩
  | .irRead _ _ _ => ⟨21, 0, 0, 0⟩
  | .irRecvPin pin _ _ => ⟨22, lo8 pin, 0, 0⟩
  | .dustRead _ _ _ => ⟨10, 0, 0, 0⟩
  | .dustEn _ _ _ => ⟨14, 0, 0, 0⟩
  | .dustDis _ _ _ => ⟨15, 0, 0, 0⟩
  | .encRead _ _ _ => ⟨11, 0, 0, 0⟩
  | .encEn _ _ _ => ⟨16, 0, 0, 0⟩
  | .encDis _ _ _ => ⟨17, 0, 0, 0⟩
  | .flowRead _ _ _ => ⟨12, 0, 0, 0⟩
  | .flowEn _ _ _ => ⟨18, 0, 0, 0⟩
  | .flowDis _ _ _ => ⟨13, 0, 0, 0⟩

/-- A frame's four bytes in transmission order (20_memory.md R83). -/
def Machine.Frame.bytes (f : Frame) : List Byte := [f.opcode, f.p1, f.p2, f.p3]

/-- The table word `W` of a frame: the opcode in bits 31 to 24 (30_encoding.md R111). -/
def Machine.Frame.word (f : Frame) : BitVec 32 := f.opcode ++ f.p1 ++ f.p2 ++ f.p3

/-- The frame whose table word is `w` (30_encoding.md R111). -/
def frameOfWord (w : BitVec 32) : Frame :=
  ⟨w.extractLsb' 24 8, w.extractLsb' 16 8, w.extractLsb' 8 8, w.extractLsb' 0 8⟩

/-- The command the decoder reads from an instruction whose bits are `w`, numbered as spec/opcode_table.json numbers
them: one 32-bit table word, its most significant byte sent first (30_encoding.md R111; log 9). -/
def decodeTableWord (nbits w : Nat) : Option Instr :=
  match decode (frameOfWord (BitVec.ofNat 32 (w % 2 ^ nbits))).bytes with
  | .ok i => some i
  | .error _ => none

/-- The command id of a command (30_encoding.md R118, R120). -/
def Instr.id (i : Instr) : CmdId :=
  match i with
  | .digitalRead _ _ _ => 0
  | .digitalWrite _ _ _ => 1
  | .analogRead _ _ _ => 2
  | .analogWrite _ _ _ => 3
  | .pinMode _ _ _ => 4
  | .thermRead _ _ _ => 5
  | .ultrasonicRead _ _ _ => 6
  | .version _ _ _ => 7
  | .accXyz _ _ _ => 8
  | .rtcGetTime _ _ _ => 9
  | .dhtRead _ _ _ => 10
  | .ledbarInit _ _ _ => 11
  | .ledbarOrient _ _ _ => 12
  | .ledbarLevel _ _ _ => 13
  | .ledbarSetOne _ _ _ => 14
  | .ledbarToggleOne _ _ _ => 15
  | .ledbarSet _ _ _ => 16
  | .ledbarGet _ _ _ => 17
  | .fdInit _ _ _ => 18
  | .fdBrightness _ _ _ => 19
  | .fdValue _ _ _ => 20
  | .fdValueZeros _ _ _ => 21
  | .fdDigit _ _ _ => 22
  | .fdSegment _ _ _ => 23
  | .fdScore _ _ _ => 24
  | .fdMonitor _ _ _ => 25
  | .fdAllOn _ _ _ => 26
  | .fdAllOff _ _ _ => 27
  | .rgbStoreColor _ _ _ => 28
  | .rgbInit _ _ _ => 29
  | .rgbTest _ _ _ => 30
  | .rgbPattern _ _ _ => 31
  | .rgbModulo _ _ _ => 32
  | .rgbLevel _ _ _ => 33
  | .irRead _ _ _ => 34
  | .irRecvPin _ _ _ => 35
  | .dustRead _ _ _ => 36
  | .dustEn _ _ _ => 37
  | .dustDis _ _ _ => 38
  | .encRead _ _ _ => 39
  | .encEn _ _ _ => 40
  | .encDis _ _ _ => 41
  | .flowRead _ _ _ => 42
  | .flowEn _ _ _ => 43
  | .flowDis _ _ _ => 44

/-- The argument word `a0` of a command (10_state.md R34). -/
def Instr.arg0 (i : Instr) : Word :=
  match i with
  | .digitalRead a0 _ _ => a0
  | .digitalWrite a0 _ _ => a0
  | .analogRead a0 _ _ => a0
  | .analogWrite a0 _ _ => a0
  | .pinMode a0 _ _ => a0
  | .thermRead a0 _ _ => a0
  | .ultrasonicRead a0 _ _ => a0
  | .version a0 _ _ => a0
  | .accXyz a0 _ _ => a0
  | .rtcGetTime a0 _ _ => a0
  | .dhtRead a0 _ _ => a0
  | .ledbarInit a0 _ _ => a0
  | .ledbarOrient a0 _ _ => a0
  | .ledbarLevel a0 _ _ => a0
  | .ledbarSetOne a0 _ _ => a0
  | .ledbarToggleOne a0 _ _ => a0
  | .ledbarSet a0 _ _ => a0
  | .ledbarGet a0 _ _ => a0
  | .fdInit a0 _ _ => a0
  | .fdBrightness a0 _ _ => a0
  | .fdValue a0 _ _ => a0
  | .fdValueZeros a0 _ _ => a0
  | .fdDigit a0 _ _ => a0
  | .fdSegment a0 _ _ => a0
  | .fdScore a0 _ _ => a0
  | .fdMonitor a0 _ _ => a0
  | .fdAllOn a0 _ _ => a0
  | .fdAllOff a0 _ _ => a0
  | .rgbStoreColor a0 _ _ => a0
  | .rgbInit a0 _ _ => a0
  | .rgbTest a0 _ _ => a0
  | .rgbPattern a0 _ _ => a0
  | .rgbModulo a0 _ _ => a0
  | .rgbLevel a0 _ _ => a0
  | .irRead a0 _ _ => a0
  | .irRecvPin a0 _ _ => a0
  | .dustRead a0 _ _ => a0
  | .dustEn a0 _ _ => a0
  | .dustDis a0 _ _ => a0
  | .encRead a0 _ _ => a0
  | .encEn a0 _ _ => a0
  | .encDis a0 _ _ => a0
  | .flowRead a0 _ _ => a0
  | .flowEn a0 _ _ => a0
  | .flowDis a0 _ _ => a0

/-- The argument word `a1` of a command (10_state.md R34). -/
def Instr.arg1 (i : Instr) : Word :=
  match i with
  | .digitalRead _ a1 _ => a1
  | .digitalWrite _ a1 _ => a1
  | .analogRead _ a1 _ => a1
  | .analogWrite _ a1 _ => a1
  | .pinMode _ a1 _ => a1
  | .thermRead _ a1 _ => a1
  | .ultrasonicRead _ a1 _ => a1
  | .version _ a1 _ => a1
  | .accXyz _ a1 _ => a1
  | .rtcGetTime _ a1 _ => a1
  | .dhtRead _ a1 _ => a1
  | .ledbarInit _ a1 _ => a1
  | .ledbarOrient _ a1 _ => a1
  | .ledbarLevel _ a1 _ => a1
  | .ledbarSetOne _ a1 _ => a1
  | .ledbarToggleOne _ a1 _ => a1
  | .ledbarSet _ a1 _ => a1
  | .ledbarGet _ a1 _ => a1
  | .fdInit _ a1 _ => a1
  | .fdBrightness _ a1 _ => a1
  | .fdValue _ a1 _ => a1
  | .fdValueZeros _ a1 _ => a1
  | .fdDigit _ a1 _ => a1
  | .fdSegment _ a1 _ => a1
  | .fdScore _ a1 _ => a1
  | .fdMonitor _ a1 _ => a1
  | .fdAllOn _ a1 _ => a1
  | .fdAllOff _ a1 _ => a1
  | .rgbStoreColor _ a1 _ => a1
  | .rgbInit _ a1 _ => a1
  | .rgbTest _ a1 _ => a1
  | .rgbPattern _ a1 _ => a1
  | .rgbModulo _ a1 _ => a1
  | .rgbLevel _ a1 _ => a1
  | .irRead _ a1 _ => a1
  | .irRecvPin _ a1 _ => a1
  | .dustRead _ a1 _ => a1
  | .dustEn _ a1 _ => a1
  | .dustDis _ a1 _ => a1
  | .encRead _ a1 _ => a1
  | .encEn _ a1 _ => a1
  | .encDis _ a1 _ => a1
  | .flowRead _ a1 _ => a1
  | .flowEn _ a1 _ => a1
  | .flowDis _ a1 _ => a1

/-- The argument word `a2` of a command (10_state.md R34). -/
def Instr.arg2 (i : Instr) : Word :=
  match i with
  | .digitalRead _ _ a2 => a2
  | .digitalWrite _ _ a2 => a2
  | .analogRead _ _ a2 => a2
  | .analogWrite _ _ a2 => a2
  | .pinMode _ _ a2 => a2
  | .thermRead _ _ a2 => a2
  | .ultrasonicRead _ _ a2 => a2
  | .version _ _ a2 => a2
  | .accXyz _ _ a2 => a2
  | .rtcGetTime _ _ a2 => a2
  | .dhtRead _ _ a2 => a2
  | .ledbarInit _ _ a2 => a2
  | .ledbarOrient _ _ a2 => a2
  | .ledbarLevel _ _ a2 => a2
  | .ledbarSetOne _ _ a2 => a2
  | .ledbarToggleOne _ _ a2 => a2
  | .ledbarSet _ _ a2 => a2
  | .ledbarGet _ _ a2 => a2
  | .fdInit _ _ a2 => a2
  | .fdBrightness _ _ a2 => a2
  | .fdValue _ _ a2 => a2
  | .fdValueZeros _ _ a2 => a2
  | .fdDigit _ _ a2 => a2
  | .fdSegment _ _ a2 => a2
  | .fdScore _ _ a2 => a2
  | .fdMonitor _ _ a2 => a2
  | .fdAllOn _ _ a2 => a2
  | .fdAllOff _ _ a2 => a2
  | .rgbStoreColor _ _ a2 => a2
  | .rgbInit _ _ a2 => a2
  | .rgbTest _ _ a2 => a2
  | .rgbPattern _ _ a2 => a2
  | .rgbModulo _ _ a2 => a2
  | .rgbLevel _ _ a2 => a2
  | .irRead _ _ a2 => a2
  | .irRecvPin _ _ a2 => a2
  | .dustRead _ _ a2 => a2
  | .dustEn _ _ a2 => a2
  | .dustDis _ _ a2 => a2
  | .encRead _ _ a2 => a2
  | .encEn _ _ a2 => a2
  | .encDis _ _ a2 => a2
  | .flowRead _ _ a2 => a2
  | .flowEn _ _ a2 => a2
  | .flowDis _ _ a2 => a2

/-- The command that a request names: ids 0 to 44 are the commands of 30_encoding.md R120, ids 45 to 63 name no
command (R118, R123). -/
def commandOf (c : CmdId) (a0 a1 a2 : Word) : Option Instr :=
  match c.toNat with
  | 0 => some (.digitalRead a0 a1 a2)
  | 1 => some (.digitalWrite a0 a1 a2)
  | 2 => some (.analogRead a0 a1 a2)
  | 3 => some (.analogWrite a0 a1 a2)
  | 4 => some (.pinMode a0 a1 a2)
  | 5 => some (.thermRead a0 a1 a2)
  | 6 => some (.ultrasonicRead a0 a1 a2)
  | 7 => some (.version a0 a1 a2)
  | 8 => some (.accXyz a0 a1 a2)
  | 9 => some (.rtcGetTime a0 a1 a2)
  | 10 => some (.dhtRead a0 a1 a2)
  | 11 => some (.ledbarInit a0 a1 a2)
  | 12 => some (.ledbarOrient a0 a1 a2)
  | 13 => some (.ledbarLevel a0 a1 a2)
  | 14 => some (.ledbarSetOne a0 a1 a2)
  | 15 => some (.ledbarToggleOne a0 a1 a2)
  | 16 => some (.ledbarSet a0 a1 a2)
  | 17 => some (.ledbarGet a0 a1 a2)
  | 18 => some (.fdInit a0 a1 a2)
  | 19 => some (.fdBrightness a0 a1 a2)
  | 20 => some (.fdValue a0 a1 a2)
  | 21 => some (.fdValueZeros a0 a1 a2)
  | 22 => some (.fdDigit a0 a1 a2)
  | 23 => some (.fdSegment a0 a1 a2)
  | 24 => some (.fdScore a0 a1 a2)
  | 25 => some (.fdMonitor a0 a1 a2)
  | 26 => some (.fdAllOn a0 a1 a2)
  | 27 => some (.fdAllOff a0 a1 a2)
  | 28 => some (.rgbStoreColor a0 a1 a2)
  | 29 => some (.rgbInit a0 a1 a2)
  | 30 => some (.rgbTest a0 a1 a2)
  | 31 => some (.rgbPattern a0 a1 a2)
  | 32 => some (.rgbModulo a0 a1 a2)
  | 33 => some (.rgbLevel a0 a1 a2)
  | 34 => some (.irRead a0 a1 a2)
  | 35 => some (.irRecvPin a0 a1 a2)
  | 36 => some (.dustRead a0 a1 a2)
  | 37 => some (.dustEn a0 a1 a2)
  | 38 => some (.dustDis a0 a1 a2)
  | 39 => some (.encRead a0 a1 a2)
  | 40 => some (.encEn a0 a1 a2)
  | 41 => some (.encDis a0 a1 a2)
  | 42 => some (.flowRead a0 a1 a2)
  | 43 => some (.flowEn a0 a1 a2)
  | 44 => some (.flowDis a0 a1 a2)
  | _ => none

end Sys2Proof
end

