-- ==== Sys2Proof/Machine/State.lean ====
section
/-! DEFINITION. The engine's state (10_state.md R30), its reset values (R61), the events of its environment, and the
reasons for which a step can stop. Everything is plain data. -/

namespace Sys2Proof.Machine

/-- The content of a register of the block. `unwritten` is a content the spec itself names and its rules write: reset, accept
and a short block read leave registers "unwritten" (10_state.md R60, R61; 40_core.md R162, R174; 70_reset_and_hazards.md
R390; log 1). -/
inductive Reg (α : Type) where
  | unwritten
  | holds (v : α)
deriving DecidableEq, Repr

/-- The sequencer phase `PHASE` (10_state.md R31). -/
inductive Phase where
  | idle
  | write
  | wait1
  | rdByte
  | rdBlk
  | wait2
  | decode
  | done
deriving DecidableEq, Repr

/-- The outcome codes of `STATUS` (10_state.md R40; 60_exceptions.md R350). -/
inductive Status where
  | ok
  | busError
  | noData
  | invalidReading
deriving DecidableEq, Repr

/-- `Dec2`: a binary32 rounded to two decimals. `fin n` is the number n / 100, with n unbounded (00_scope.md R12;
92_eei_decisions.md D34). -/
inductive Dec2 where
  | fin (n : Int)
  | posInf
  | negInf
deriving DecidableEq, Repr

/-- The decoded value `RESULT` (10_state.md R41). -/
inductive Result where
  | none
  | byte (v : Byte)
  | u16 (v : BitVec 16)
  | acc (x y z : Int)
  | dht (t h : Dec2)
  | temp (t : Binary64)
  | version (a b c : Byte)
  | raw (bs : List Byte)
  | sent (hdr : Byte) (v : Nat)
deriving DecidableEq, Repr

/-- What a decode yields: a value with `OK`, or one of the two decode-level errors without a value (40_core.md R176,
R180). -/
inductive Verdict where
  | ok (r : Result)
  | noData
  | invalidReading
deriving DecidableEq, Repr

/-- The transport's diagnostic, of any content and width; the engine never interprets it (10_state.md R42; log 14). -/
abbrev Diag := List Byte

/-- The transport's answer, `t_ack = 1`: `t_ok = 1` with the delivered bytes `t_rdata`, of which there are `t_rcnt`, or
`t_ok = 0` with `t_diag` (10_state.md R46, R47). -/
inductive Answer where
  | ok (rdata : List Byte)
  | fail (diag : Diag)
deriving DecidableEq, Repr

/-- A transport operation as the engine presents it: `t_op` with `t_addr`, `t_wdata` or `t_len` (10_state.md R46). -/
inductive BusOp where
  | wr4 (addr : BusAddr) (f : Frame)
  | rd1 (addr : BusAddr)
  | rdn (addr : BusAddr) (len : BitVec 5)
deriving DecidableEq, Repr

/-- What happens at the transport port, in order: an operation is presented (`t_req` raised), the outstanding one is answered,
or reset abandons it (10_state.md R47; 70_reset_and_hazards.md R390; log 3, log 22). -/
inductive BusEvent where
  | issued (op : BusOp)
  | answered (a : Answer)
  | abandoned
deriving DecidableEq, Repr

/-- One event at the block's inputs, or one scheduling of the engine (00_scope.md R7; 40_core.md R177; log 2, log 16, log 21):
the reset input, a caller request, a time-base tick, a transport answer, or `go`, at which the engine takes its enabled
internal step (the exit of a wait, the decode). -/
inductive Input where
  | rst
  | req (cmd : CmdId) (a0 a1 a2 : Word)
  | tick
  | answer (a : Answer)
  | go
deriving DecidableEq, Repr

/-- The registers a rule of the engine or the caller can read before they are written (10_state.md R60). -/
inductive RegName where
  | cmd
  | arg1
  | frame
  | rb
  | resp
  | status
  | result
  | diag
deriving DecidableEq, Repr

/-- Why a step stops. No run of the default build from reset whose transport keeps its contract reaches one of them
(`Obligations.NoStepReadsAnUnwrittenRegister`); another build can reach `unwrittenRead` of RB, and that alone (log 30). -/
inductive Fault where
  /-- A rule reads a register that holds no value: "a read of an unwritten value is a fault of the model" (10_state.md R60;
  93_implementation_defined.md U1, U2). Raised by the engine's steps in states that no run of the default build from reset reaches,
  and by the caller's reads of an outcome that is not there (`readStatus`, `readResult`, `readDiag`). In a build with a block row
  that has `disc = 0` and `F_BYTE`, which R59's list does not refuse, the decode of RB raises it in a run from reset (DESIGN CHOICE,
  log 30). Safe. -/
  | unwrittenRead (r : RegName)
  /-- The latched command id names no entry of the table. Raised by the engine's steps in states that no run reaches, since
  accept latches only ids of the table (40_core.md R162; log 19). Safe. -/
  | noTableEntry
  /-- A block read is answered with more bytes than it asked for: "`fault` of the environment: outside the transport
  contract" (93_implementation_defined.md U9; 10_state.md R47; log 11). Raised by the answer in RDBLK. Safe. -/
  | overlongDelivery
  /-- A one-byte read is answered with success and no byte: outside the contract `readByte(address) -> byte` (40_core.md
  R171; 10_state.md R47; log 11). Raised by the answer in RDBYTE. Safe. -/
  | missingByte
deriving DecidableEq, Repr

/-- Why a step has no meaning. -/
inductive Refusal where
  /-- The instruction has no meaning in this model yet. Raised by an arm of `exec` and by nothing else. Safe. -/
  | notModelled (mnemonic : String)
deriving DecidableEq, Repr

/-- The engine's registers (10_state.md R30: "exactly the following, and nothing else"), and two fields of the model: the
environment's events still to come (`inputs`, log 2) and what happened at the transport port (`trace`, log 3). -/
structure State where
  /-- `PHASE` (R31). -/
  phase : Phase
  /-- `CMD` (R33). -/
  cmd : Reg CmdId
  /-- `ARG0` (R34). -/
  arg0 : Reg Word
  /-- `ARG1` (R34). -/
  arg1 : Reg Word
  /-- `ARG2` (R34). -/
  arg2 : Reg Word
  /-- `FRAME[0..3]`, written only as a whole (R35). -/
  frame : Reg Frame
  /-- `DLY`, `DLY_W` = 32 bits (R36). -/
  dly : BitVec 32
  /-- `RB` (R37). -/
  rb : Reg Byte
  /-- `RESP[0..20]` as its written bytes: `RESP[i]` is entry `i`, and unwritten from the end of the list on (R38, R60;
  log 13). -/
  resp : List Byte
  /-- `RCNT` (R39). -/
  rcnt : BitVec 5
  /-- `STATUS` (R40). -/
  status : Reg Status
  /-- `RESULT` (R41). -/
  result : Reg Result
  /-- `DIAG` (R42). -/
  diag : Reg Diag
  /-- `REFUSED` (R43). -/
  refused : Bool
  /-- The model's own: the environment's events still to come. -/
  inputs : List Input
  /-- The model's own: the events at the transport port so far. -/
  trace : List BusEvent
deriving DecidableEq, Repr

/-- The outcome of a step of the engine. -/
abbrev Out := Host.Outcome State Fault Refusal

/-- The state after reset (10_state.md R61), with no event to come and none past (log 2, log 3). -/
def State.reset : State :=
  { phase := .idle
    cmd := .unwritten
    arg0 := .unwritten
    arg1 := .unwritten
    arg2 := .unwritten
    frame := .unwritten
    dly := 0
    rb := .unwritten
    resp := []
    rcnt := 0
    status := .unwritten
    result := .unwritten
    diag := .unwritten
    refused := false
    inputs := []
    trace := [] }

end Sys2Proof.Machine
end

