-- ==== Sys2Proof/Machine/Flags.lean ====
section
/-! DEFINITION. The block's status signals: the register codes of `PHASE` and `STATUS`, the readiness of the engine, and
the tests on which an outcome depends (length, sentinel). There are no arithmetic flags (40_core.md R199). -/

namespace Sys2Proof.Machine

/-- The 3-bit code of a phase (10_state.md R31). -/
def Phase.code (p : Phase) : BitVec 3 :=
  match p with
  | .idle => 0
  | .write => 1
  | .wait1 => 2
  | .rdByte => 3
  | .rdBlk => 4
  | .wait2 => 5
  | .decode => 6
  | .done => 7

/-- The 2-bit code of an outcome (10_state.md R40). -/
def Status.code (x : Status) : BitVec 2 :=
  match x with
  | .ok => 0
  | .busError => 1
  | .noData => 2
  | .invalidReading => 3

/-- `ready = (PHASE = IDLE or PHASE = DONE)`, of a phase (10_state.md R44). -/
def Phase.ready (p : Phase) : Bool :=
  match p with
  | .idle | .done => true
  | .write | .wait1 | .rdByte | .rdBlk | .wait2 | .decode => false

/-- A transport operation is outstanding: `t_req = 1` (40_core.md R163, R171, R173). -/
def Phase.onBus (p : Phase) : Bool :=
  match p with
  | .write | .rdByte | .rdBlk => true
  | .idle | .wait1 | .wait2 | .decode | .done => false

/-- The delay register counts: `PHASE` is WAIT1 or WAIT2 (40_core.md R168). -/
def Phase.waiting (p : Phase) : Bool :=
  match p with
  | .wait1 | .wait2 => true
  | .idle | .write | .rdByte | .rdBlk | .decode | .done => false

/-- `ready` of the state (10_state.md R44). -/
def State.ready (s : State) : Bool := s.phase.ready

/-- The outcome code of a verdict (40_core.md R176; 60_exceptions.md R350). -/
def Verdict.status (v : Verdict) : Status :=
  match v with
  | .ok _ => .ok
  | .noData => .noData
  | .invalidReading => .invalidReading

/-- The sentinel value 255: "no new data" (00_scope.md R9, R13). -/
def isSentinel (b : Byte) : Bool := b == 255

/-- The bytes a format needs, its `need(m)` (30_encoding.md R117; 40_core.md R180, R190 to R194); 0 for the two formats that
read no block. -/
def bytesNeeded (x : Format) : Nat :=
  match x with
  | .none | .byte => 0
  | .u16be | .u16le | .therm => 3
  | .acc3 | .ver => 4
  | .raw => 5
  | .dht => 9
  | .ir => 21
  | .sent2 => 2
  | .sent3 => 3
  | .sent4 => 4

/-- The last block is short for the format: `RCNT < m` (40_core.md R187). -/
def State.short (x : Format) (s : State) : Bool := decide (s.rcnt.toNat < bytesNeeded x)

end Sys2Proof.Machine
end

