-- ==== Sys2Proof/Machine/Ops.lean ====
section
/-! DEFINITION. The named operations on the engine's registers: every write of a register goes through one of them.
Among them are the entry into an error (`takeBusError` for a transport failure, `finish` for a decode-level error), which
the block has in place of exceptions (60_exceptions.md R354, R355), and the return from one, which is the next accept
(`latch`, 60_exceptions.md R357). -/

namespace Sys2Proof.Machine

/-- The environment's events still to come. -/
def State.setInputs (s : State) (es : List Input) : State := { s with inputs := es }

/-- Something happens at the transport port. -/
def State.note (s : State) (ev : BusEvent) : State := { s with trace := s.trace ++ [ev] }

/-- The registers' part of the accept: the request is latched, the frame built, the outcome of the last command made
unwritten, and the frame write presented to the transport (40_core.md R162, R163). It is also the return from an error
(60_exceptions.md R357). -/
def State.latch (s : State) (c : CmdId) (a0 a1 a2 : Word) (f : Frame) : State :=
  { s with
    phase := .write
    cmd := .holds c
    arg0 := .holds a0
    arg1 := .holds a1
    arg2 := .holds a2
    frame := .holds f
    resp := []
    rcnt := 0
    status := .unwritten
    result := .unwritten
    diag := .unwritten
    trace := s.trace ++ [.issued (.wr4 .main f)] }

/-- Refusal of a request whose id names no command: `REFUSED <- 1`, `PHASE <- IDLE`, nothing else (40_core.md R161; log 15). -/
def State.refuse (s : State) : State := { s with phase := .idle, refused := true }

/-- Reset of the registers to their reset values (70_reset_and_hazards.md R390; 10_state.md R61). An outstanding operation
is abandoned; the environment's events to come and the port's past are no registers and stay. -/
def State.resetRegs (s : State) : State :=
  { State.reset with
    inputs := s.inputs
    trace := s.trace ++ (if s.phase.onBus then [.abandoned] else []) }

/-- Entry into a `BusError`, one step for every transport operation (60_exceptions.md R354; 40_core.md R165, R172, R175):
the diagnostic is stored verbatim, `RESULT` is not written (log 25). -/
def State.takeBusError (s : State) (d : Diag) : State :=
  { s with phase := .done, status := .holds .busError, diag := .holds d }

/-- The end of a command whose transport operations all succeeded: `STATUS` and `PHASE <- DONE`, and `RESULT` only with
`OK` (40_core.md R169, R176; 60_exceptions.md R355). -/
def State.finish (s : State) (v : Verdict) : State :=
  { s with
    phase := .done
    status := .holds v.status
    result := match v with
      | .ok r => .holds r
      | .noData | .invalidReading => s.result }

/-- Loading the delay register at the start of a wait, modulo 2^32 (10_state.md R36; log 20). -/
def State.loadDelay (s : State) (p : Phase) (n : Nat) : State := { s with phase := p, dly := BitVec.ofNat 32 n }

/-- A tick: in WAIT1 or WAIT2 with `DLY > 0` it counts, everywhere else it is ignored (40_core.md R168). -/
def State.countTick (s : State) : State :=
  if s.phase.waiting && s.dly != 0 then { s with dly := s.dly - 1 } else s

/-- Presenting a one-byte read, always at `ADDR_MAIN` (40_core.md R169, R171; 20_memory.md R82). -/
def State.issueByte (s : State) : State :=
  { s with phase := .rdByte, trace := s.trace ++ [.issued (.rd1 .main)] }

/-- Presenting the block read of an entry (40_core.md R169, R171, R173). -/
def State.issueBlock (s : State) (e : CtEntry) : State :=
  { s with phase := .rdBlk, trace := s.trace ++ [.issued (.rdn e.raddr e.rlen)] }

/-- A one-byte read delivers its byte (40_core.md R171). -/
def State.setRb (s : State) (b : Byte) : State := { s with rb := .holds b }

/-- A block read delivers its bytes: `RESP[i]` for `i < t_rcnt`, the rest unwritten, and `RCNT` (40_core.md R174). -/
def State.setResp (s : State) (bs : List Byte) : State :=
  { s with resp := bs, rcnt := BitVec.ofNat 5 bs.length }

/-- The end of the decode wait: `PHASE <- DECODE` (40_core.md R170). -/
def State.toDecode (s : State) : State := { s with phase := .decode }

/-- `ticks(d)`: one guard tick over a nonzero delay (40_core.md R166). -/
def ticks (d : Nat) : Nat := if d = 0 then 0 else d + 1

/-- `settle(e, FRAME)`: the constant settle delay, or the monitor mode's `1000 * FRAME[3] + 50` ms (40_core.md R166,
R167). -/
def settle (e : CtEntry) (f : Frame) : Nat :=
  match e.d1 with
  | .ms d => ticks d
  | .mon => ticks (1000 * f.p3.toNat + 50)

/-- The post-read hold of an entry: `DLY <- ticks(d2)`, `PHASE <- WAIT2` (40_core.md R170). -/
def State.beginHold (s : State) (e : CtEntry) : State := s.loadDelay .wait2 (ticks e.d2)

/-- `RESP[i]` (10_state.md R38, R60). -/
def State.respAt (s : State) (i : Nat) : Reg Byte :=
  match s.resp[i]? with
  | some b => .holds b
  | none => .unwritten

/-- The mux output for the latched command, `CT[CMD]` (10_state.md R49). -/
def withEntry (G : Params) (s : State) (k : CtEntry → Out) : Out :=
  match s.cmd with
  | .unwritten => .fault (.unwrittenRead .cmd)
  | .holds c =>
    match lookup G.table c with
    | none => .fault .noTableEntry
    | some e => k e

/-- The frame register's content (10_state.md R35). -/
def withFrame (s : State) (k : Frame → Out) : Out :=
  match s.frame with
  | .unwritten => .fault (.unwrittenRead .frame)
  | .holds f => k f

end Sys2Proof.Machine
end

