-- ==== Sys2Proof/Machine/Floats.lean ====
section
/-! DEFINITION. What the block does with floating-point data (40_core.md R199): reinterpreting four bytes as a binary32
(R188), classifying a datum, and the exact rounding to two decimals (R189). -/

namespace Sys2Proof.Machine

/-- Binary32 from four block bytes, the lowest-indexed byte least significant (40_core.md R188). -/
def f32le (b0 b1 b2 b3 : Byte) : Binary32 := b3 ++ b2 ++ b1 ++ b0

/-- The sign bit of a binary32. -/
def sign32 (f : Binary32) : Bool := f.msb

/-- The exponent field of a binary32, pattern bits 30:23 (40_core.md R189). -/
def expo32 (f : Binary32) : Nat := (f.extractLsb' 23 8).toNat

/-- The fraction field of a binary32, pattern bits 22:0 (40_core.md R189). -/
def frac32 (f : Binary32) : Nat := (f.extractLsb' 0 23).toNat

/-- "the exponent field is all ones and the fraction field is nonzero, whatever the sign and payload" (40_core.md R189). -/
def isNaN32 (f : Binary32) : Bool := expo32 f == 255 && frac32 f != 0

/-- The binary64 is a NaN: exponent field (bits 62:52) all ones, fraction field (bits 51:0) nonzero (40_core.md R191). -/
def isNaN64 (t : Binary64) : Bool := t.extractLsb' 52 11 == 2047 && t.extractLsb' 0 52 != 0

/-- The magnitude of a finite binary32 in units of 2^-149, the smallest subnormal: exact for every finite datum. -/
def magnitude32 (f : Binary32) : Nat :=
  if expo32 f = 0 then frac32 f else (2 ^ 23 + frac32 f) * 2 ^ (expo32 f - 1)

/-- The natural number nearest to `num / den`, a tie going to the even one (40_core.md R189, `RNE`). -/
def rneDiv (num den : Nat) : Nat :=
  if den < 2 * (num % den) ∨ (2 * (num % den) = den ∧ num / den % 2 = 1) then num / den + 1 else num / den

/-- Rounding to two decimal places: `RNE(exact(f) * 100)` for a finite datum, the infinity's sign otherwise (40_core.md
R189). It is not applied to a NaN (R190). -/
def rnd2 (f : Binary32) : Dec2 :=
  if expo32 f = 255 then (if sign32 f then .negInf else .posInf)
  else if sign32 f then .fin (-(rneDiv (magnitude32 f * 100) (2 ^ 149) : Nat))
  else .fin (rneDiv (magnitude32 f * 100) (2 ^ 149) : Nat)

end Sys2Proof.Machine
end

