-- ==== Sys2Proof/Machine/Payload.lean ====
section
/-! DEFINITION. The response decoders (40_core.md R180 to R195). Each reads the written bytes of RESP; a byte that a decoder
needs and that holds no value is a fault (10_state.md R60). The length check of R187 keeps it from arising for a byte of RESP; for RB
see `decodeByte`. -/

namespace Sys2Proof.Machine

/-- Composite unsigned 16-bit, `hi * 256 + lo` (40_core.md R181). -/
def comp16 (hi lo : Byte) : Nat := hi.toNat * 256 + lo.toNat

/-- Composite unsigned 16-bit, `lo ^ (hi << 8)` (40_core.md R182). -/
def compXor16 (lo hi : Byte) : Nat := lo.toNat ^^^ (hi.toNat <<< 8)

/-- The signed-offset fold: `b` up to 32, `b - 224` above (40_core.md R185; 90_conflicts.md C4). -/
def fold (b : Byte) : Int := if b.toNat ≤ 32 then b.toNat else (b.toNat : Int) - 224

/-- The little-endian value of a byte sequence, `Σ b_j · 256^(j-1)` (40_core.md R192). -/
def le (bs : List Byte) : Nat :=
  match bs with
  | [] => 0
  | b :: rest => b.toNat + 256 * le rest

/-- The decimal numeral of a byte in ASCII digits, without leading zeros, `"0"` for 0 (40_core.md R184). -/
def decimal (x : Byte) : List Char :=
  let d (n : Nat) : Char := Char.ofNat (48 + n % 10)
  if x.toNat < 10 then [d x.toNat]
  else if x.toNat < 100 then [d (x.toNat / 10), d x.toNat]
  else [d (x.toNat / 100), d (x.toNat / 10), d x.toNat]

/-- The rendering of a version triplet, as its characters: `dec(a) ++ "." ++ dec(b) ++ "." ++ dec(c)` (40_core.md R184). -/
def renderVersion (a b c : Byte) : List Char := decimal a ++ '.' :: decimal b ++ '.' :: decimal c

/-- A decoder needs a byte of RESP that holds no value (10_state.md R60). -/
def respUnwritten : Except Fault Verdict := .error (.unwrittenRead .resp)

/-- `F_U16BE`: `RESP[1]` high, `RESP[2]` low (40_core.md R181). -/
def decodeU16be (resp : List Byte) : Except Fault Verdict :=
  match resp with
  | _ :: hi :: lo :: _ => .ok (.ok (.u16 (BitVec.ofNat 16 (comp16 hi lo))))
  | _ => respUnwritten

/-- `F_U16LE`: `RESP[1]` low, `RESP[2]` high (40_core.md R182). -/
def decodeU16le (resp : List Byte) : Except Fault Verdict :=
  match resp with
  | _ :: lo :: hi :: _ => .ok (.ok (.u16 (BitVec.ofNat 16 (compXor16 lo hi))))
  | _ => respUnwritten

/-- `F_ACC3`: the folds of `RESP[1]`, `RESP[2]`, `RESP[3]`, in the order x, y, z (40_core.md R186). -/
def decodeAcc3 (resp : List Byte) : Except Fault Verdict :=
  match resp with
  | _ :: x :: y :: z :: _ => .ok (.ok (.acc (fold x) (fold y) (fold z)))
  | _ => respUnwritten

/-- `F_VER`: the triplet `RESP[1]`, `RESP[2]`, `RESP[3]` (40_core.md R184). -/
def decodeVer (resp : List Byte) : Except Fault Verdict :=
  match resp with
  | _ :: a :: b :: c :: _ => .ok (.ok (.version a b c))
  | _ => respUnwritten

/-- `F_RAW`: `RESP[0..4]`, uninterpreted (40_core.md R195). -/
def decodeRaw (resp : List Byte) : Except Fault Verdict :=
  match resp with
  | b0 :: b1 :: b2 :: b3 :: b4 :: _ => .ok (.ok (.raw [b0, b1, b2, b3, b4]))
  | _ => respUnwritten

/-- `F_DHT`: two binary32, `RESP[1..4]` the temperature and `RESP[5..8]` the humidity; a NaN in either is an invalid
reading (40_core.md R190). -/
def decodeDht (resp : List Byte) : Except Fault Verdict :=
  match resp with
  | _ :: t0 :: t1 :: t2 :: t3 :: h0 :: h1 :: h2 :: h3 :: _ =>
    if isNaN32 (f32le t0 t1 t2 t3) || isNaN32 (f32le h0 h1 h2 h3) then .ok .invalidReading
    else .ok (.ok (.dht (rnd2 (f32le t0 t1 t2 t3)) (rnd2 (f32le h0 h1 h2 h3))))
  | _ => respUnwritten

/-- The thermistor conversion of an analog value with B-coefficient `b` by the build's `THERM_FN`: outside the domain, or
a NaN, is an invalid reading (40_core.md R191; 41_gpio.md R226). -/
def thermValue (F : ThermFn) (a : Nat) (b : BCoeff) : Verdict :=
  if a = 0 ∨ 1023 ≤ a then .invalidReading
  else if isNaN64 (F a b) then .invalidReading
  else .ok (.temp (F a b))

/-- `F_THERM`: the analog value of `F_U16BE`, converted with the B-coefficient that `ARG1` selects (40_core.md R191; 41_gpio.md
R227). -/
def decodeTherm (F : ThermFn) (arg1 : Reg Word) (resp : List Byte) : Except Fault Verdict :=
  match resp with
  | _ :: hi :: lo :: _ =>
    match arg1 with
    | .holds m => .ok (thermValue F (comp16 hi lo) (bsel m))
    | .unwritten => .error (.unwrittenRead .arg1)
  | _ => respUnwritten

/-- `F_IR`: the sentinel at `RESP[1]`, else the raw bytes `RESP[0..20]` (40_core.md R194). -/
def decodeIr (resp : List Byte) : Except Fault Verdict :=
  if resp.length < 21 then respUnwritten
  else if (resp[1]?).any isSentinel then .ok .noData
  else .ok (.ok (.raw (resp.take 21)))

/-- `F_SENTn`: the sentinel at the header `RESP[0]`, else the header with the little-endian value of `RESP[1..n-1]`
(40_core.md R192, R193). -/
def decodeSent (n : Nat) (resp : List Byte) : Except Fault Verdict :=
  if resp.length < n then respUnwritten
  else match resp with
    | hdr :: rest => if isSentinel hdr then .ok .noData else .ok (.ok (.sent hdr (le (rest.take (n - 1)))))
    | [] => respUnwritten

/-- `F_BYTE`: the byte of RB, raw (40_core.md R180). An RB that no step has written is a fault (10_state.md R60), and no run of the
default build from reset comes to it. R59's list does not refuse a build's block row with `F_BYTE`, and what that row decodes is the
model's DESIGN CHOICE (log 30), RB as it stands. With `disc = 0` no step of the command writes RB: the decode faults where RB is
still unwritten, and answers an earlier command's byte where it is not. With `disc = 1` it answers the discard read's own byte,
of which 10_state.md R37 and 93_implementation_defined.md U23 say that it is never read. -/
def decodeByte (rb : Reg Byte) : Except Fault Verdict :=
  match rb with
  | .holds b => .ok (.ok (.byte b))
  | .unwritten => .error (.unwrittenRead .rb)

/-- A block format's own rule, applied after its length check (40_core.md R180). -/
def decodeBlock (F : ThermFn) (x : Format) (s : State) : Except Fault Verdict :=
  match x with
  | .none => .ok (.ok .none)
  | .byte => decodeByte s.rb
  | .u16be => decodeU16be s.resp
  | .u16le => decodeU16le s.resp
  | .acc3 => decodeAcc3 s.resp
  | .dht => decodeDht s.resp
  | .therm => decodeTherm F s.arg1 s.resp
  | .ver => decodeVer s.resp
  | .raw => decodeRaw s.resp
  | .ir => decodeIr s.resp
  | .sent2 => decodeSent 2 s.resp
  | .sent3 => decodeSent 3 s.resp
  | .sent4 => decodeSent 4 s.resp

/-- The decode dispatcher: a short block is `NO_DATA` at once, before the format's own rule (40_core.md R180, R187;
60_exceptions.md R356). -/
def decodePayload (F : ThermFn) (x : Format) (s : State) : Except Fault Verdict :=
  if s.short x then .ok .noData else decodeBlock F x s

end Sys2Proof.Machine
end

