-- ==== Sys2Proof/Machine/Engine.lean ====
section
/-! DEFINITION. The engine's steps (40_core.md R161 to R177), one function for each rule, over the parameters of any build,
and the run of one command through them (R160). -/

namespace Sys2Proof.Machine

/-- The transport answers in WRITE (40_core.md R164, R165). -/
def answerWrite (G : Params) (a : Answer) (s : State) : Out :=
  match a with
  | .fail d => .next ((s.note (.answered a)).takeBusError d)
  | .ok _ =>
    withEntry G s fun e => withFrame s fun f => .next ((s.note (.answered a)).loadDelay .wait1 (settle e f))

/-- The transport answers in RDBYTE (40_core.md R171, R172). -/
def answerByte (G : Params) (a : Answer) (s : State) : Out :=
  match a with
  | .fail d => .next ((s.note (.answered a)).takeBusError d)
  | .ok [] => .fault .missingByte
  | .ok (b :: _) =>
    withEntry G s fun e =>
      match e.rk with
      | .byte => .next (((s.note (.answered a)).setRb b).beginHold e)
      | .none | .block => .next (((s.note (.answered a)).setRb b).issueBlock e)

/-- The transport answers in RDBLK (40_core.md R174, R175). -/
def answerBlock (G : Params) (a : Answer) (s : State) : Out :=
  match a with
  | .fail d => .next ((s.note (.answered a)).takeBusError d)
  | .ok bs =>
    withEntry G s fun e =>
      if e.rlen.toNat < bs.length then .fault .overlongDelivery
      else .next (((s.note (.answered a)).setResp bs).beginHold e)

/-- The transport answers. Where no operation is outstanding there is nothing to answer, and nothing happens (40_core.md
R177; 70_reset_and_hazards.md R390; log 12). -/
def takeAnswer (G : Params) (a : Answer) (s : State) : Out :=
  match s.phase with
  | .write => answerWrite G a s
  | .rdByte => answerByte G a s
  | .rdBlk => answerBlock G a s
  | .idle | .wait1 | .wait2 | .decode | .done => .next s

/-- The exit from WAIT1 (40_core.md R169; 90_conflicts.md C15). -/
def exitWait1 (G : Params) (s : State) : Out :=
  withEntry G s fun e =>
    match e.rk with
    | .none => .next (s.finish (.ok .none))
    | .byte => .next s.issueByte
    | .block => if e.disc then .next s.issueByte else .next (s.issueBlock e)

/-- The decode step (40_core.md R176). -/
def decodeStep (G : Params) (s : State) : Out :=
  withEntry G s fun e =>
    match decodePayload G.thermFn e.fmt s with
    | .ok v => .next (s.finish v)
    | .error r => .fault r

/-- The engine is scheduled: it takes the internal step enabled in its phase, if there is one (40_core.md R168, R177). A
wait exits only with `DLY = 0` (70_reset_and_hazards.md R395). -/
def takeGo (G : Params) (s : State) : Out :=
  match s.phase with
  | .wait1 => if s.dly = 0 then exitWait1 G s else .next s
  | .wait2 => if s.dly = 0 then .next s.toDecode else .next s
  | .decode => decodeStep G s
  | .idle | .write | .rdByte | .rdBlk | .done => .next s

/-- The caller presents a request: accepted or refused when the engine is ready, not sampled when it is not (40_core.md R161,
R162). -/
def takeRequest (G : Params) (c : CmdId) (a0 a1 a2 : Word) (s : State) : State :=
  if s.ready then
    match lookup G.table c with
    | some e => s.latch c a0 a1 a2 (encodeFrame e a0 a1 a2)
    | none => s.refuse
  else s

/-- One step of the block at one event (40_core.md R177). Reset is enabled in every phase (70_reset_and_hazards.md R390). -/
def engineStep (G : Params) (ev : Input) (s : State) : Out :=
  match ev with
  | .rst => .next s.resetRegs
  | .req c a0 a1 a2 => .next (takeRequest G c a0 a1 a2 s)
  | .tick => .next s.countTick
  | .answer a => takeAnswer G a s
  | .go => takeGo G s

/-- The command in progress goes on through the events to come, one engine step at each, until the engine is ready again or the
events are used up; then the environment is silent and the engine stays in its phase (40_core.md R163; 70_reset_and_hazards.md
R400). -/
def drive (G : Params) (es : List Input) (s : State) : Out :=
  match es with
  | [] => .next s
  | ev :: rest =>
    if s.ready then .next s
    else
      match engineStep G ev (s.setInputs rest) with
      | .next s' => drive G rest s'
      | .fault r => .fault r
      | .refused r => .refused r

/-- The generic command (40_core.md R160): accept, then the command's steps through the events to come. A request at an
engine that is not ready is not sampled (R162; log 23). -/
def runCommand (G : Params) (c : CmdId) (a0 a1 a2 : Word) (s : State) : Out :=
  if s.ready then drive G s.inputs (takeRequest G c a0 a1 a2 s) else .next s

end Sys2Proof.Machine
end

