-- ==== Sys2Proof/Machine/FourDigit.lean ====
section
/-! DEFINITION. The four-digit display commands (44_four_digit.md): one meaning per command, each the generic command of 40_core.md R160 run with the
command's own id, whose table entry fixes its frame, its reads, its delays and its decode format. -/

namespace Sys2Proof.Machine

/-- `fd_init pin` (44_four_digit.md R280). -/
def execFdInit (pin u1 u2 : Word) (s : State) : Out :=
  runCommand defaultParams 18 pin u1 u2 s

/-- `fd_brightness pin, brightness` (44_four_digit.md R281). -/
def execFdBrightness (pin brightness u2 : Word) (s : State) : Out :=
  runCommand defaultParams 19 pin brightness u2 s

/-- `fd_value pin, value` (44_four_digit.md R282). -/
def execFdValue (pin value u2 : Word) (s : State) : Out :=
  runCommand defaultParams 20 pin value u2 s

/-- `fd_value_zeros pin, value` (44_four_digit.md R283). -/
def execFdValueZeros (pin value u2 : Word) (s : State) : Out :=
  runCommand defaultParams 21 pin value u2 s

/-- `fd_digit pin, segment, value` (44_four_digit.md R284). -/
def execFdDigit (pin segment value : Word) (s : State) : Out :=
  runCommand defaultParams 22 pin segment value s

/-- `fd_segment pin, segment, leds` (44_four_digit.md R285). -/
def execFdSegment (pin segment leds : Word) (s : State) : Out :=
  runCommand defaultParams 23 pin segment leds s

/-- `fd_score pin, left, right` (44_four_digit.md R286). -/
def execFdScore (pin left right : Word) (s : State) : Out :=
  runCommand defaultParams 24 pin left right s

/-- `fd_monitor pin, analogPin, duration` (44_four_digit.md R287). -/
def execFdMonitor (pin analogPin duration : Word) (s : State) : Out :=
  runCommand defaultParams 25 pin analogPin duration s

/-- `fd_all_on pin` (44_four_digit.md R288). -/
def execFdAllOn (pin u1 u2 : Word) (s : State) : Out :=
  runCommand defaultParams 26 pin u1 u2 s

/-- `fd_all_off pin` (44_four_digit.md R289). -/
def execFdAllOff (pin u1 u2 : Word) (s : State) : Out :=
  runCommand defaultParams 27 pin u1 u2 s

end Sys2Proof.Machine
end

