-- ==== Sys2Proof/Machine/Gpio.lean ====
section
/-! DEFINITION. Digital and analog GPIO commands and the thermistor conversion (41_gpio.md): one meaning per command, each the generic command of 40_core.md R160 run with the
command's own id, whose table entry fixes its frame, its reads, its delays and its decode format. -/

namespace Sys2Proof.Machine

/-- `digital_read pin` (41_gpio.md R220). -/
def execDigitalRead (pin u1 u2 : Word) (s : State) : Out :=
  runCommand defaultParams 0 pin u1 u2 s

/-- `digital_write pin, value` (41_gpio.md R221). -/
def execDigitalWrite (pin value u2 : Word) (s : State) : Out :=
  runCommand defaultParams 1 pin value u2 s

/-- `analog_read pin` (41_gpio.md R222). -/
def execAnalogRead (pin u1 u2 : Word) (s : State) : Out :=
  runCommand defaultParams 2 pin u1 u2 s

/-- `analog_write pin, value` (41_gpio.md R223). -/
def execAnalogWrite (pin value u2 : Word) (s : State) : Out :=
  runCommand defaultParams 3 pin value u2 s

/-- `pin_mode pin, mode` (41_gpio.md R224). -/
def execPinMode (pin mode u2 : Word) (s : State) : Out :=
  runCommand defaultParams 4 pin mode u2 s

/-- `therm_read pin, model` (41_gpio.md R225). -/
def execThermRead (pin model u2 : Word) (s : State) : Out :=
  runCommand defaultParams 5 pin model u2 s

end Sys2Proof.Machine
end

