-- ==== Sys2Proof/Machine/IrDustEncoderFlow.lean ====
section
/-! DEFINITION. The IR, dust, encoder and flow sensor commands (46_ir_dust_encoder_flow.md): one meaning per command, each the generic command of 40_core.md R160 run with the
command's own id, whose table entry fixes its frame, its reads, its delays and its decode format. -/

namespace Sys2Proof.Machine

/-- `ir_read` (46_ir_dust_encoder_flow.md R320). -/
def execIrRead (u0 u1 u2 : Word) (s : State) : Out :=
  runCommand defaultParams 34 u0 u1 u2 s

/-- `ir_recv_pin pin` (46_ir_dust_encoder_flow.md R321). -/
def execIrRecvPin (pin u1 u2 : Word) (s : State) : Out :=
  runCommand defaultParams 35 pin u1 u2 s

/-- `dust_read` (46_ir_dust_encoder_flow.md R322). -/
def execDustRead (u0 u1 u2 : Word) (s : State) : Out :=
  runCommand defaultParams 36 u0 u1 u2 s

/-- `dust_en` (46_ir_dust_encoder_flow.md R323). -/
def execDustEn (u0 u1 u2 : Word) (s : State) : Out :=
  runCommand defaultParams 37 u0 u1 u2 s

/-- `dust_dis` (46_ir_dust_encoder_flow.md R324). -/
def execDustDis (u0 u1 u2 : Word) (s : State) : Out :=
  runCommand defaultParams 38 u0 u1 u2 s

/-- `enc_read` (46_ir_dust_encoder_flow.md R325). -/
def execEncRead (u0 u1 u2 : Word) (s : State) : Out :=
  runCommand defaultParams 39 u0 u1 u2 s

/-- `enc_en` (46_ir_dust_encoder_flow.md R326). -/
def execEncEn (u0 u1 u2 : Word) (s : State) : Out :=
  runCommand defaultParams 40 u0 u1 u2 s

/-- `enc_dis` (46_ir_dust_encoder_flow.md R327). -/
def execEncDis (u0 u1 u2 : Word) (s : State) : Out :=
  runCommand defaultParams 41 u0 u1 u2 s

/-- `flow_read` (46_ir_dust_encoder_flow.md R328). -/
def execFlowRead (u0 u1 u2 : Word) (s : State) : Out :=
  runCommand defaultParams 42 u0 u1 u2 s

/-- `flow_en` (46_ir_dust_encoder_flow.md R329). -/
def execFlowEn (u0 u1 u2 : Word) (s : State) : Out :=
  runCommand defaultParams 43 u0 u1 u2 s

/-- `flow_dis` (46_ir_dust_encoder_flow.md R330). -/
def execFlowDis (u0 u1 u2 : Word) (s : State) : Out :=
  runCommand defaultParams 44 u0 u1 u2 s

end Sys2Proof.Machine
end

