-- ==== Sys2Proof/Machine/LedBar.lean ====
section
/-! DEFINITION. The LED bar commands (43_ledbar.md): one meaning per command, each the generic command of 40_core.md R160 run with the
command's own id, whose table entry fixes its frame, its reads, its delays and its decode format. -/

namespace Sys2Proof.Machine

/-- `ledbar_init pin, orientation` (43_ledbar.md R260). -/
def execLedbarInit (pin orientation u2 : Word) (s : State) : Out :=
  runCommand defaultParams 11 pin orientation u2 s

/-- `ledbar_orient pin, orientation` (43_ledbar.md R261). -/
def execLedbarOrient (pin orientation u2 : Word) (s : State) : Out :=
  runCommand defaultParams 12 pin orientation u2 s

/-- `ledbar_level pin, level` (43_ledbar.md R262). -/
def execLedbarLevel (pin level u2 : Word) (s : State) : Out :=
  runCommand defaultParams 13 pin level u2 s

/-- `ledbar_set_one pin, led, state` (43_ledbar.md R263). -/
def execLedbarSetOne (pin led state : Word) (s : State) : Out :=
  runCommand defaultParams 14 pin led state s

/-- `ledbar_toggle_one pin, led` (43_ledbar.md R264). -/
def execLedbarToggleOne (pin led u2 : Word) (s : State) : Out :=
  runCommand defaultParams 15 pin led u2 s

/-- `ledbar_set pin, mask` (43_ledbar.md R265). -/
def execLedbarSet (pin mask u2 : Word) (s : State) : Out :=
  runCommand defaultParams 16 pin mask u2 s

/-- `ledbar_get pin` (43_ledbar.md R266). -/
def execLedbarGet (pin u1 u2 : Word) (s : State) : Out :=
  runCommand defaultParams 17 pin u1 u2 s

end Sys2Proof.Machine
end

