-- ==== Sys2Proof/Machine/RgbLed.lean ====
section
/-! DEFINITION. The chainable RGB LED commands (45_rgb_led.md): one meaning per command, each the generic command of 40_core.md R160 run with the
command's own id, whose table entry fixes its frame, its reads, its delays and its decode format. -/

namespace Sys2Proof.Machine

/-- `rgb_store_color red, green, blue` (45_rgb_led.md R300). -/
def execRgbStoreColor (red green blue : Word) (s : State) : Out :=
  runCommand defaultParams 28 red green blue s

/-- `rgb_init pin, numLeds` (45_rgb_led.md R301). -/
def execRgbInit (pin numLeds u2 : Word) (s : State) : Out :=
  runCommand defaultParams 29 pin numLeds u2 s

/-- `rgb_test pin, numLeds, color` (45_rgb_led.md R302). -/
def execRgbTest (pin numLeds color : Word) (s : State) : Out :=
  runCommand defaultParams 30 pin numLeds color s

/-- `rgb_pattern pin, pattern, whichLed` (45_rgb_led.md R303). -/
def execRgbPattern (pin pattern whichLed : Word) (s : State) : Out :=
  runCommand defaultParams 31 pin pattern whichLed s

/-- `rgb_modulo pin, offset, divisor` (45_rgb_led.md R304). -/
def execRgbModulo (pin offset divisor : Word) (s : State) : Out :=
  runCommand defaultParams 32 pin offset divisor s

/-- `rgb_level pin, level, reverse` (45_rgb_led.md R305). -/
def execRgbLevel (pin level reverse : Word) (s : State) : Out :=
  runCommand defaultParams 33 pin level reverse s

end Sys2Proof.Machine
end

