-- ==== Sys2Proof/Machine/Sensors.lean ====
section
/-! DEFINITION. The sensor read commands (42_sensors.md): one meaning per command, each the generic command of 40_core.md R160 run with the
command's own id, whose table entry fixes its frame, its reads, its delays and its decode format. -/

namespace Sys2Proof.Machine

/-- `ultrasonic_read pin` (42_sensors.md R240). -/
def execUltrasonicRead (pin u1 u2 : Word) (s : State) : Out :=
  runCommand defaultParams 6 pin u1 u2 s

/-- `version` (42_sensors.md R241). -/
def execVersion (u0 u1 u2 : Word) (s : State) : Out :=
  runCommand defaultParams 7 u0 u1 u2 s

/-- `acc_xyz` (42_sensors.md R242). -/
def execAccXyz (u0 u1 u2 : Word) (s : State) : Out :=
  runCommand defaultParams 8 u0 u1 u2 s

/-- `rtc_get_time` (42_sensors.md R243). -/
def execRtcGetTime (u0 u1 u2 : Word) (s : State) : Out :=
  runCommand defaultParams 9 u0 u1 u2 s

/-- `dht_read pin, moduleType` (42_sensors.md R244). -/
def execDhtRead (pin moduleType u2 : Word) (s : State) : Out :=
  runCommand defaultParams 10 pin moduleType u2 s

end Sys2Proof.Machine
end

