-- ==== Sys2Proof/Machine/Dispatch.lean ====
section
/-! DEFINITION. The dispatch: one arm per command. -/

namespace Sys2Proof.Machine

def exec (i : Instr) (s : State) : Host.Outcome State Fault Refusal :=
  match i with
  | .digitalRead a0 a1 a2 => Sys2Proof.Machine.execDigitalRead a0 a1 a2 s
  | .digitalWrite a0 a1 a2 => Sys2Proof.Machine.execDigitalWrite a0 a1 a2 s
  | .analogRead a0 a1 a2 => Sys2Proof.Machine.execAnalogRead a0 a1 a2 s
  | .analogWrite a0 a1 a2 => Sys2Proof.Machine.execAnalogWrite a0 a1 a2 s
  | .pinMode a0 a1 a2 => Sys2Proof.Machine.execPinMode a0 a1 a2 s
  | .thermRead a0 a1 a2 => Sys2Proof.Machine.execThermRead a0 a1 a2 s
  | .ultrasonicRead a0 a1 a2 => Sys2Proof.Machine.execUltrasonicRead a0 a1 a2 s
  | .version a0 a1 a2 => Sys2Proof.Machine.execVersion a0 a1 a2 s
  | .accXyz a0 a1 a2 => Sys2Proof.Machine.execAccXyz a0 a1 a2 s
  | .rtcGetTime a0 a1 a2 => Sys2Proof.Machine.execRtcGetTime a0 a1 a2 s
  | .dhtRead a0 a1 a2 => Sys2Proof.Machine.execDhtRead a0 a1 a2 s
  | .ledbarInit a0 a1 a2 => Sys2Proof.Machine.execLedbarInit a0 a1 a2 s
  | .ledbarOrient a0 a1 a2 => Sys2Proof.Machine.execLedbarOrient a0 a1 a2 s
  | .ledbarLevel a0 a1 a2 => Sys2Proof.Machine.execLedbarLevel a0 a1 a2 s
  | .ledbarSetOne a0 a1 a2 => Sys2Proof.Machine.execLedbarSetOne a0 a1 a2 s
  | .ledbarToggleOne a0 a1 a2 => Sys2Proof.Machine.execLedbarToggleOne a0 a1 a2 s
  | .ledbarSet a0 a1 a2 => Sys2Proof.Machine.execLedbarSet a0 a1 a2 s
  | .ledbarGet a0 a1 a2 => Sys2Proof.Machine.execLedbarGet a0 a1 a2 s
  | .fdInit a0 a1 a2 => Sys2Proof.Machine.execFdInit a0 a1 a2 s
  | .fdBrightness a0 a1 a2 => Sys2Proof.Machine.execFdBrightness a0 a1 a2 s
  | .fdValue a0 a1 a2 => Sys2Proof.Machine.execFdValue a0 a1 a2 s
  | .fdValueZeros a0 a1 a2 => Sys2Proof.Machine.execFdValueZeros a0 a1 a2 s
  | .fdDigit a0 a1 a2 => Sys2Proof.Machine.execFdDigit a0 a1 a2 s
  | .fdSegment a0 a1 a2 => Sys2Proof.Machine.execFdSegment a0 a1 a2 s
  | .fdScore a0 a1 a2 => Sys2Proof.Machine.execFdScore a0 a1 a2 s
  | .fdMonitor a0 a1 a2 => Sys2Proof.Machine.execFdMonitor a0 a1 a2 s
  | .fdAllOn a0 a1 a2 => Sys2Proof.Machine.execFdAllOn a0 a1 a2 s
  | .fdAllOff a0 a1 a2 => Sys2Proof.Machine.execFdAllOff a0 a1 a2 s
  | .rgbStoreColor a0 a1 a2 => Sys2Proof.Machine.execRgbStoreColor a0 a1 a2 s
  | .rgbInit a0 a1 a2 => Sys2Proof.Machine.execRgbInit a0 a1 a2 s
  | .rgbTest a0 a1 a2 => Sys2Proof.Machine.execRgbTest a0 a1 a2 s
  | .rgbPattern a0 a1 a2 => Sys2Proof.Machine.execRgbPattern a0 a1 a2 s
  | .rgbModulo a0 a1 a2 => Sys2Proof.Machine.execRgbModulo a0 a1 a2 s
  | .rgbLevel a0 a1 a2 => Sys2Proof.Machine.execRgbLevel a0 a1 a2 s
  | .irRead a0 a1 a2 => Sys2Proof.Machine.execIrRead a0 a1 a2 s
  | .irRecvPin a0 a1 a2 => Sys2Proof.Machine.execIrRecvPin a0 a1 a2 s
  | .dustRead a0 a1 a2 => Sys2Proof.Machine.execDustRead a0 a1 a2 s
  | .dustEn a0 a1 a2 => Sys2Proof.Machine.execDustEn a0 a1 a2 s
  | .dustDis a0 a1 a2 => Sys2Proof.Machine.execDustDis a0 a1 a2 s
  | .encRead a0 a1 a2 => Sys2Proof.Machine.execEncRead a0 a1 a2 s
  | .encEn a0 a1 a2 => Sys2Proof.Machine.execEncEn a0 a1 a2 s
  | .encDis a0 a1 a2 => Sys2Proof.Machine.execEncDis a0 a1 a2 s
  | .flowRead a0 a1 a2 => Sys2Proof.Machine.execFlowRead a0 a1 a2 s
  | .flowEn a0 a1 a2 => Sys2Proof.Machine.execFlowEn a0 a1 a2 s
  | .flowDis a0 a1 a2 => Sys2Proof.Machine.execFlowDis a0 a1 a2 s

end Sys2Proof.Machine
end

