-- ==== Sys2Proof/Machine/Fetch.lean ====
section
/-! DEFINITION. Where the machine's next command comes from: the request among the environment's events (40_core.md R162;
70_reset_and_hazards.md R391), and the step of the machine in a build with any parameters. -/

namespace Sys2Proof.Machine

/-- The command that an event requests: none for a request of an id that names no command, and none for an event that is no
request (30_encoding.md R118, R123). -/
def requested (ev : Input) : Option Instr :=
  match ev with
  | .req c a0 a1 a2 => commandOf c a0 a1 a2
  | .rst | .tick | .answer _ | .go => none

/-- The command in progress goes on through the events to come, in the build with parameters `G`. -/
def resume (G : Params) (s : State) : Out := drive G s.inputs s

/-- One step of the machine in the build with parameters `G`, whose commands have the meaning `run`. The block fetches nothing
(20_memory.md R97): a ready engine takes the environment's next event, and where that is a request of a command it runs the
command; a busy engine goes on with its command through the events to come. With no event to come nothing happens (log 4). -/
def stepWith (G : Params) (run : Instr → State → Out) (s : State) : Out :=
  if s.ready then
    match s.inputs with
    | [] => .next s
    | ev :: rest =>
      match requested ev with
      | some i => run i (s.setInputs rest)
      | none => engineStep G ev (s.setInputs rest)
  else resume G s

/-- The request of a command (10_state.md R44). -/
def requestOf (i : Instr) : Input := .req i.id i.arg0 i.arg1 i.arg2

/-- `s` with a request presented before every other event, and with a ready engine: a busy one would go on with its own command
first. Where there is no command, the request has id 63, which names none (30_encoding.md R123). -/
def present (i : Option Instr) (s : State) : State :=
  { s with
    phase := if s.ready then s.phase else .idle
    inputs := (match i with | some j => requestOf j | none => .req 63 0 0 0) :: s.inputs }

end Sys2Proof.Machine
end

