-- ==== Sys2Proof/Machine/Step.lean ====
section
/-! DEFINITION. The step of the machine, and the placing of a frame's command where the next step takes it. -/

namespace Sys2Proof.Machine

/-- One step of the machine in the default build: the default table (30_encoding.md R120; log 6), the open parameters of any
value. Another build's machine is `machineOf` of its parameters. -/
def step (s : State) : Host.Outcome State Fault Refusal := stepWith defaultParams exec s

/-- `s` with the command whose table word is `w` presented as the next request at a ready engine (log 5). -/
def State.withFetchWord (s : State) (nbits w : Nat) : State := present (decodeTableWord nbits w) s

end Sys2Proof.Machine
end

