-- ==== Sys2Proof/Machine/Assembler.lean ====
section
/-! DEFINITION. The textual syntax of commands (30_encoding.md R126) and the caller-side pseudo-instructions (R127). The
document defines no assembler; this one is the spec's (log 18). -/

namespace Sys2Proof.Machine

/-- An operand as written: a number, or a name (30_encoding.md R126). -/
inductive Operand where
  | num (v : Int)
  | name (x : String)
deriving DecidableEq, Repr

/-- Which names an operand position accepts beside a number (30_encoding.md R126). -/
inductive OperandKind where
  | plain
  | mode
  | model
deriving DecidableEq, Repr

/-- A number as an argument word: its two's-complement pattern; a number that is no `P_W`-bit pattern is refused (log 18). -/
def wordOf (v : Int) : Option Word :=
  if -(2 ^ 31) ≤ v ∧ v < 2 ^ 32 then some (BitVec.ofInt 32 v) else none

/-- The word an operand stands for in a position: `INPUT` = 0 and `OUTPUT` = 1 for a mode, `1.0` = 0, `1.1` = 1 and
`1.2` = 2 for a thermistor model (30_encoding.md R126; 41_gpio.md R227). -/
def operandWord (k : OperandKind) (x : Operand) : Option Word :=
  match x with
  | .num v => wordOf v
  | .name n =>
    match k with
    | .plain => none
    | .mode => if n = "INPUT" then some 0 else if n = "OUTPUT" then some 1 else none
    | .model => if n = "1.0" then some 0 else if n = "1.1" then some 1 else if n = "1.2" then some 2 else none

/-- The words of the operands in their positions: "an assembler refuses any extra operand" (30_encoding.md R126). -/
def operandWords (ks : List OperandKind) (xs : List Operand) : Option (List Word) :=
  match ks, xs with
  | _, [] => some []
  | [], _ :: _ => none
  | k :: ks, x :: xs => (operandWord k x).bind fun w => (operandWords ks xs).map (w :: ·)

/-- The command with its operands in order; "an omitted operand is 0" (30_encoding.md R126). -/
def withOperands (mk : Word → Word → Word → Instr) (ks : List OperandKind) (xs : List Operand) : Option Instr :=
  (operandWords ks xs).map fun ws => mk (ws.getD 0 0) (ws.getD 1 0) (ws.getD 2 0)

/-- `four_digit_number pin, value, lz`: `fd_value` if `lz ≠ 0`, else `fd_value_zeros` (30_encoding.md R127). -/
def fourDigitNumber (pin value lz : Word) : Instr :=
  if lz ≠ 0 then .fdValue pin value 0 else .fdValueZeros pin value 0

/-- A command or pseudo-instruction by its mnemonic and operands: "the number of non-`Z` selectors of its layout, except
`therm_read`, which takes 2" (30_encoding.md R126, R127). `LPLH` has three such selectors, A0, LO1 and HI1 (R116), so
`ledbar_set`, `fd_value` and `fd_value_zeros` take a third operand, which goes to `a2` and which no selector reads. -/
def assemble (mnemonic : String) (xs : List Operand) : Option Instr :=
  match mnemonic with
  | "digital_read" => withOperands .digitalRead [.plain] xs
  | "digital_write" => withOperands .digitalWrite [.plain, .plain] xs
  | "analog_read" => withOperands .analogRead [.plain] xs
  | "analog_write" => withOperands .analogWrite [.plain, .plain] xs
  | "pin_mode" => withOperands .pinMode [.plain, .mode] xs
  | "therm_read" => withOperands .thermRead [.plain, .model] xs
  | "ultrasonic_read" => withOperands .ultrasonicRead [.plain] xs
  | "version" => withOperands .version [] xs
  | "acc_xyz" => withOperands .accXyz [] xs
  | "rtc_get_time" => withOperands .rtcGetTime [] xs
  | "dht_read" => withOperands .dhtRead [.plain, .plain] xs
  | "ledbar_init" => withOperands .ledbarInit [.plain, .plain] xs
  | "ledbar_orient" => withOperands .ledbarOrient [.plain, .plain] xs
  | "ledbar_level" => withOperands .ledbarLevel [.plain, .plain] xs
  | "ledbar_set_one" => withOperands .ledbarSetOne [.plain, .plain, .plain] xs
  | "ledbar_toggle_one" => withOperands .ledbarToggleOne [.plain, .plain] xs
  | "ledbar_set" => withOperands .ledbarSet [.plain, .plain, .plain] xs
  | "ledbar_get" => withOperands .ledbarGet [.plain] xs
  | "fd_init" => withOperands .fdInit [.plain] xs
  | "fd_brightness" => withOperands .fdBrightness [.plain, .plain] xs
  | "fd_value" => withOperands .fdValue [.plain, .plain, .plain] xs
  | "fd_value_zeros" => withOperands .fdValueZeros [.plain, .plain, .plain] xs
  | "fd_digit" => withOperands .fdDigit [.plain, .plain, .plain] xs
  | "fd_segment" => withOperands .fdSegment [.plain, .plain, .plain] xs
  | "fd_score" => withOperands .fdScore [.plain, .plain, .plain] xs
  | "fd_monitor" => withOperands .fdMonitor [.plain, .plain, .plain] xs
  | "fd_all_on" => withOperands .fdAllOn [.plain] xs
  | "fd_all_off" => withOperands .fdAllOff [.plain] xs
  | "rgb_store_color" => withOperands .rgbStoreColor [.plain, .plain, .plain] xs
  | "rgb_init" => withOperands .rgbInit [.plain, .plain] xs
  | "rgb_test" => withOperands .rgbTest [.plain, .plain, .plain] xs
  | "rgb_pattern" => withOperands .rgbPattern [.plain, .plain, .plain] xs
  | "rgb_modulo" => withOperands .rgbModulo [.plain, .plain, .plain] xs
  | "rgb_level" => withOperands .rgbLevel [.plain, .plain, .plain] xs
  | "ir_read" => withOperands .irRead [] xs
  | "ir_recv_pin" => withOperands .irRecvPin [.plain] xs
  | "dust_read" => withOperands .dustRead [] xs
  | "dust_en" => withOperands .dustEn [] xs
  | "dust_dis" => withOperands .dustDis [] xs
  | "enc_read" => withOperands .encRead [] xs
  | "enc_en" => withOperands .encEn [] xs
  | "enc_dis" => withOperands .encDis [] xs
  | "flow_read" => withOperands .flowRead [] xs
  | "flow_en" => withOperands .flowEn [] xs
  | "flow_dis" => withOperands .flowDis [] xs
  | "ledbar_set_bits" => withOperands .ledbarSet [.plain, .plain] xs
  | "ledbar_get_bits" => withOperands .ledbarGet [.plain] xs
  | "four_digit_number" => withOperands fourDigitNumber [.plain, .plain, .plain] xs
  | "temp" => withOperands .thermRead [.plain, .model] xs
  | _ => none

/-- A decimal or hexadecimal digit below the base. -/
def digitOf (base : Nat) (c : Char) : Option Nat :=
  let n := c.toNat
  let v := if 48 ≤ n ∧ n ≤ 57 then n - 48 else if 97 ≤ n ∧ n ≤ 102 then n - 87 else if 65 ≤ n ∧ n ≤ 70 then n - 55 else base
  if v < base then some v else none

/-- A nonempty sequence of digits in a base. -/
def digitsOf (base : Nat) (cs : List Char) : Option Nat :=
  if cs.isEmpty then none
  else cs.foldl (fun acc c => acc.bind fun n => (digitOf base c).map (n * base + ·)) (some 0)

/-- A natural number, decimal or `0x` hexadecimal (30_encoding.md R126). -/
def naturalOf (cs : List Char) : Option Nat :=
  match cs with
  | '0' :: 'x' :: ds => digitsOf 16 ds
  | _ => digitsOf 10 cs

/-- An operand: a number, "optionally negative", else a name (30_encoding.md R126). -/
def operandOf (cs : List Char) : Operand :=
  match cs with
  | '-' :: ds =>
    match naturalOf ds with
    | some n => .num (-(n : Int))
    | none => .name (String.ofList cs)
  | _ =>
    match naturalOf cs with
    | some n => .num n
    | none => .name (String.ofList cs)

/-- The text without the blanks at its ends. -/
def trimBlanks (cs : List Char) : List Char :=
  ((cs.dropWhile (· == ' ')).reverse.dropWhile (· == ' ')).reverse

/-- The parts of a text between its commas. -/
def commaParts (cs : List Char) : List (List Char) :=
  match cs with
  | [] => [[]]
  | c :: rest =>
    match commaParts rest with
    | p :: ps => if c = ',' then [] :: p :: ps else (c :: p) :: ps
    | [] => [[c]]

/-- A command as text, `mnemonic [op0 [, op1 [, op2]]]` (30_encoding.md R126). -/
def parseCommand (line : String) : Option Instr :=
  let cs := trimBlanks line.toList
  let mnemonic := cs.takeWhile (· != ' ')
  let operands := trimBlanks (cs.dropWhile (· != ' '))
  assemble (String.ofList mnemonic)
    (if operands.isEmpty then [] else (commaParts operands).map fun p => operandOf (trimBlanks p))

/-- The mnemonic of a command (30_encoding.md R120, R126). -/
def mnemonicOf (i : Instr) : String :=
  match i with
  | .digitalRead _ _ _ => "digital_read"
  | .digitalWrite _ _ _ => "digital_write"
  | .analogRead _ _ _ => "analog_read"
  | .analogWrite _ _ _ => "analog_write"
  | .pinMode _ _ _ => "pin_mode"
  | .thermRead _ _ _ => "therm_read"
  | .ultrasonicRead _ _ _ => "ultrasonic_read"
  | .version _ _ _ => "version"
  | .accXyz _ _ _ => "acc_xyz"
  | .rtcGetTime _ _ _ => "rtc_get_time"
  | .dhtRead _ _ _ => "dht_read"
  | .ledbarInit _ _ _ => "ledbar_init"
  | .ledbarOrient _ _ _ => "ledbar_orient"
  | .ledbarLevel _ _ _ => "ledbar_level"
  | .ledbarSetOne _ _ _ => "ledbar_set_one"
  | .ledbarToggleOne _ _ _ => "ledbar_toggle_one"
  | .ledbarSet _ _ _ => "ledbar_set"
  | .ledbarGet _ _ _ => "ledbar_get"
  | .fdInit _ _ _ => "fd_init"
  | .fdBrightness _ _ _ => "fd_brightness"
  | .fdValue _ _ _ => "fd_value"
  | .fdValueZeros _ _ _ => "fd_value_zeros"
  | .fdDigit _ _ _ => "fd_digit"
  | .fdSegment _ _ _ => "fd_segment"
  | .fdScore _ _ _ => "fd_score"
  | .fdMonitor _ _ _ => "fd_monitor"
  | .fdAllOn _ _ _ => "fd_all_on"
  | .fdAllOff _ _ _ => "fd_all_off"
  | .rgbStoreColor _ _ _ => "rgb_store_color"
  | .rgbInit _ _ _ => "rgb_init"
  | .rgbTest _ _ _ => "rgb_test"
  | .rgbPattern _ _ _ => "rgb_pattern"
  | .rgbModulo _ _ _ => "rgb_modulo"
  | .rgbLevel _ _ _ => "rgb_level"
  | .irRead _ _ _ => "ir_read"
  | .irRecvPin _ _ _ => "ir_recv_pin"
  | .dustRead _ _ _ => "dust_read"
  | .dustEn _ _ _ => "dust_en"
  | .dustDis _ _ _ => "dust_dis"
  | .encRead _ _ _ => "enc_read"
  | .encEn _ _ _ => "enc_en"
  | .encDis _ _ _ => "enc_dis"
  | .flowRead _ _ _ => "flow_read"
  | .flowEn _ _ _ => "flow_en"
  | .flowDis _ _ _ => "flow_dis"

/-- A word as a number operand. -/
def numOperand (a : Word) : Operand := .num a.toNat

/-- The operands of a command as written, one for each non-`Z` selector of its layout, and two for `therm_read` (30_encoding.md
R126). -/
def operandsOf (i : Instr) : List Operand :=
  match i with
  | .digitalRead pin _ _ => [numOperand pin]
  | .digitalWrite pin value _ => [numOperand pin, numOperand value]
  | .analogRead pin _ _ => [numOperand pin]
  | .analogWrite pin value _ => [numOperand pin, numOperand value]
  | .pinMode pin mode _ => [numOperand pin, numOperand mode]
  | .thermRead pin model _ => [numOperand pin, numOperand model]
  | .ultrasonicRead pin _ _ => [numOperand pin]
  | .version _ _ _ => []
  | .accXyz _ _ _ => []
  | .rtcGetTime _ _ _ => []
  | .dhtRead pin moduleType _ => [numOperand pin, numOperand moduleType]
  | .ledbarInit pin orientation _ => [numOperand pin, numOperand orientation]
  | .ledbarOrient pin orientation _ => [numOperand pin, numOperand orientation]
  | .ledbarLevel pin level _ => [numOperand pin, numOperand level]
  | .ledbarSetOne pin led state => [numOperand pin, numOperand led, numOperand state]
  | .ledbarToggleOne pin led _ => [numOperand pin, numOperand led]
  | .ledbarSet pin mask u2 => [numOperand pin, numOperand mask, numOperand u2]
  | .ledbarGet pin _ _ => [numOperand pin]
  | .fdInit pin _ _ => [numOperand pin]
  | .fdBrightness pin brightness _ => [numOperand pin, numOperand brightness]
  | .fdValue pin value u2 => [numOperand pin, numOperand value, numOperand u2]
  | .fdValueZeros pin value u2 => [numOperand pin, numOperand value, numOperand u2]
  | .fdDigit pin segment value => [numOperand pin, numOperand segment, numOperand value]
  | .fdSegment pin segment leds => [numOperand pin, numOperand segment, numOperand leds]
  | .fdScore pin left right => [numOperand pin, numOperand left, numOperand right]
  | .fdMonitor pin analogPin duration => [numOperand pin, numOperand analogPin, numOperand duration]
  | .fdAllOn pin _ _ => [numOperand pin]
  | .fdAllOff pin _ _ => [numOperand pin]
  | .rgbStoreColor red green blue => [numOperand red, numOperand green, numOperand blue]
  | .rgbInit pin numLeds _ => [numOperand pin, numOperand numLeds]
  | .rgbTest pin numLeds color => [numOperand pin, numOperand numLeds, numOperand color]
  | .rgbPattern pin pattern whichLed => [numOperand pin, numOperand pattern, numOperand whichLed]
  | .rgbModulo pin offset divisor => [numOperand pin, numOperand offset, numOperand divisor]
  | .rgbLevel pin level reverse => [numOperand pin, numOperand level, numOperand reverse]
  | .irRead _ _ _ => []
  | .irRecvPin pin _ _ => [numOperand pin]
  | .dustRead _ _ _ => []
  | .dustEn _ _ _ => []
  | .dustDis _ _ _ => []
  | .encRead _ _ _ => []
  | .encEn _ _ _ => []
  | .encDis _ _ _ => []
  | .flowRead _ _ _ => []
  | .flowEn _ _ _ => []
  | .flowDis _ _ _ => []

end Sys2Proof.Machine
end

