-- ==== Sys2Proof/Machine/Build.lean ====
section
/-! DEFINITION. A build of the block: "the build binds the command table `CT`, checked against" 10_state.md R59, "and the
parameters `ADDR_MAIN`, `ADDR_ALT`, `P_W` and `THERM_FN`" (70_reset_and_hazards.md R394; 00_scope.md R8; 92_eei_decisions.md,
open parameters). -/

namespace Sys2Proof.Machine

/-- The meaning of a command in the build with parameters `G`: the generic command with the command's own request (40_core.md
R160). -/
def execWith (G : Params) (i : Instr) (s : State) : Out := runCommand G i.id i.arg0 i.arg1 i.arg2 s

/-- The machine of the build with parameters `G`; reset is the same in every build (10_state.md R61). -/
def machineOf (G : Params) : Host.Core :=
  { State := State, Fault := Fault, Refusal := Refusal, step := stepWith G (execWith G), reset := State.reset }

/-- Building the block: the machine bound to the parameters where the table passes the check, and no machine for any other
table (10_state.md R59; 70_reset_and_hazards.md R394; 93_implementation_defined.md U5). -/
def build (G : Params) : Option Host.Core := (configure G.table).map fun T => machineOf { G with table := T }

end Sys2Proof.Machine
end

