-- ==== Sys2Proof/Machine/Ports.lean ====
section
/-! DEFINITION. The block's output signals, as functions of its state: the caller port (10_state.md R44) and the transport
port (R46, R47; 40_core.md R163, R171, R173), and the caller's reads of an outcome (10_state.md R60; 70_reset_and_hazards.md
R398). -/

namespace Sys2Proof.Machine

/-- `done` (10_state.md R44). -/
def State.doneOut (s : State) : Bool := s.phase == .done

/-- The signal `status`: the register as it stands, in every phase (10_state.md R44). It is valid only while
`PHASE = DONE`, and the caller's read of it is `readStatus` (R40). -/
def State.statusOut (s : State) : Reg Status := s.status

/-- `result` (10_state.md R44). -/
def State.resultOut (s : State) : Reg Result := s.result

/-- `diag` (10_state.md R44). -/
def State.diagOut (s : State) : Reg Diag := s.diag

/-- `refused` (10_state.md R44). -/
def State.refusedOut (s : State) : Bool := s.refused

/-- `t_req`: an operation is presented and not yet answered (10_state.md R47). -/
def State.tReq (s : State) : Bool := s.phase.onBus

/-- The numeric bus address of an operation, in the build with parameters `G` (20_memory.md R80). -/
def busAddress (G : Params) (a : BusAddr) : BusAddress :=
  match a with
  | .main => G.addrMain
  | .alt => G.addrAlt

/-- The operation on the transport port, `t_op` with its address, data or length: a frame write in WRITE (40_core.md R163), a
one-byte read in RDBYTE (R171), the entry's block read in RDBLK (R173). -/
def State.tOp (T : CommandTable) (s : State) : Option BusOp :=
  match s.phase with
  | .write =>
    match s.frame with
    | .holds f => some (.wr4 .main f)
    | .unwritten => none
  | .rdByte => some (.rd1 .main)
  | .rdBlk =>
    match s.cmd with
    | .holds c => (lookup T c).map fun e => .rdn e.raddr e.rlen
    | .unwritten => none
  | .idle | .wait1 | .wait2 | .decode | .done => none

/-- `t_addr` of an operation (10_state.md R46; 20_memory.md R82). -/
def BusOp.tAddr (G : Params) (op : BusOp) : BusAddress :=
  match op with
  | .wr4 a _ => busAddress G a
  | .rd1 a => busAddress G a
  | .rdn a _ => busAddress G a

/-- The caller reads `status`: "valid only while `PHASE = DONE`" (10_state.md R40), and before that, or after an accept, no value
(R60; 93_implementation_defined.md U1). -/
def State.readStatus (s : State) : Except Fault Status :=
  match s.phase, s.status with
  | .done, .holds st => .ok st
  | _, _ => .error (.unwrittenRead .status)

/-- The caller reads `result`: a value only while `done = 1` and `status = OK` (10_state.md R41, R60). -/
def State.readResult (s : State) : Except Fault Result :=
  match s.phase, s.status, s.result with
  | .done, .holds .ok, .holds r => .ok r
  | _, _, _ => .error (.unwrittenRead .result)

/-- The caller reads `diag`: a value only while `done = 1` and `status = BUS_ERROR` (10_state.md R42; 70_reset_and_hazards.md
R398). -/
def State.readDiag (s : State) : Except Fault Diag :=
  match s.phase, s.status, s.diag with
  | .done, .holds .busError, .holds d => .ok d
  | _, _, _ => .error (.unwrittenRead .diag)

end Sys2Proof.Machine
end

