-- ==== Sys2Proof/Machine/Binary64.lean ====
section
/-! DEFINITION. Binary64 arithmetic, in which 41_gpio.md R226 evaluates the reference conversion: each operation gives the exact
result rounded to nearest, ties to even, as 40_core.md R199 has no rounding mode register (log 28). -/

namespace Sys2Proof.Machine

/-- What a binary64 pattern stands for; `fin neg n` is the number n · 2^-1074 with its sign, exact for every finite datum. -/
inductive Datum64 where
  | nan
  | inf (neg : Bool)
  | fin (neg : Bool) (n : Nat)
deriving DecidableEq, Repr

/-- The units of 2^-1074 in 1. -/
@[irreducible] def one64 : Nat := 2 ^ 1074

/-- The units in 2^1024, the first magnitude beyond the range. -/
@[irreducible] def limit64 : Nat := 2 ^ 1024 * one64

/-- The natural number with a binary64's 53 significant bits nearest to `num / den`, a tie going to the even one; below 2^53 the
nearest natural number, which is a subnormal's or a smallest normal's precision. -/
def roundUnits (num den : Nat) : Nat :=
  let k := Nat.log2 (num / den) - 52
  rneDiv num (den * 2 ^ k) * 2 ^ k

/-- The datum nearest to `num / den` units: an infinity from 2^1024 on. -/
def round64 (neg : Bool) (num den : Nat) : Datum64 :=
  if roundUnits num den < limit64 then .fin neg (roundUnits num den) else .inf neg

/-- The datum nearest to the decimal `num / den`. -/
def literal64 (num den : Nat) : Datum64 := round64 false (num * one64) den

/-- The units of a finite datum with their sign. -/
def signedUnits (neg : Bool) (n : Nat) : Int := if neg then -(n : Int) else n

/-- The negated datum. -/
def neg64 (x : Datum64) : Datum64 :=
  match x with
  | .nan => .nan
  | .inf s => .inf (!s)
  | .fin s n => .fin (!s) n

/-- The sum; an exact zero is positive unless both summands are negative. -/
def add64 (x y : Datum64) : Datum64 :=
  match x, y with
  | .nan, _ | _, .nan => .nan
  | .inf s, .inf t => if s = t then .inf s else .nan
  | .inf s, .fin _ _ => .inf s
  | .fin _ _, .inf t => .inf t
  | .fin s a, .fin t b =>
    let v := signedUnits s a + signedUnits t b
    if v = 0 then .fin (s && t) 0 else round64 (decide (v < 0)) v.natAbs 1

/-- The difference. -/
def sub64 (x y : Datum64) : Datum64 := add64 x (neg64 y)

/-- The product. -/
def mul64 (x y : Datum64) : Datum64 :=
  match x, y with
  | .nan, _ | _, .nan => .nan
  | .inf s, .inf t => .inf (s ^^ t)
  | .inf s, .fin t b => if b = 0 then .nan else .inf (s ^^ t)
  | .fin s a, .inf t => if a = 0 then .nan else .inf (s ^^ t)
  | .fin s a, .fin t b => round64 (s ^^ t) (a * b) one64

/-- The quotient; a nonzero number by zero is an infinity, zero by zero a NaN. -/
def div64 (x y : Datum64) : Datum64 :=
  match x, y with
  | .nan, _ | _, .nan => .nan
  | .inf _, .inf _ => .nan
  | .inf s, .fin t _ => .inf (s ^^ t)
  | .fin s _, .inf t => .fin (s ^^ t) 0
  | .fin s a, .fin t b =>
    if b = 0 then (if a = 0 then .nan else .inf (s ^^ t)) else round64 (s ^^ t) (a * one64) b

/-- The number of terms of the series for the logarithm: with z at most 1/3 the rest is below 2^-190. -/
def lnTerms : Nat := 60

/-- A common multiple of the series' odd denominators 1, 3, up to 2 · `lnTerms` - 1. -/
def oddMultiple : Nat := (2 * lnTerms).factorial

/-- The terms `j` to `j + n - 1` of Σ z^(2j) / (2j+1) with z = p / q, divided by z^(2j), as the numerator over the denominator
`oddMultiple` · q^(2(n-1)); from `j` = 0 on, times z, it is the series of artanh z. -/
def artanhNum (p q n j : Nat) : Nat :=
  match n with
  | 0 => 0
  | n + 1 => oddMultiple / (2 * j + 1) * q ^ (2 * n) + p * p * artanhNum p q n (j + 1)

/-- The natural logarithm of `n` units as a numerator and a denominator: with 2^k the power of two below n and
z = p / q = (n - 2^k) / (n + 2^k), it is (k - 1074) · 2 artanh(1/3) + 2 artanh z. -/
def lnNum (n : Nat) : Int :=
  let k := Nat.log2 n
  let p := n - 2 ^ k
  let q := n + 2 ^ k
  ((k : Int) - 1074) * (2 * artanhNum 1 3 lnTerms 0 * q ^ (2 * lnTerms - 1) : Nat) +
    (2 * p * artanhNum p q lnTerms 0 * 3 ^ (2 * lnTerms - 1) : Nat)

/-- The denominator of `lnNum`. -/
def lnDen (n : Nat) : Nat := oddMultiple * 3 ^ (2 * lnTerms - 1) * (n + 2 ^ Nat.log2 n) ^ (2 * lnTerms - 1)

/-- `ln`: the natural logarithm, rounded to nearest from the sum of its series (41_gpio.md R226; log 28). -/
def ln64 (x : Datum64) : Datum64 :=
  match x with
  | .nan => .nan
  | .inf s => if s then .nan else .inf false
  | .fin s n =>
    if n = 0 then .inf true
    else if s then .nan
    else round64 (decide (lnNum n < 0)) ((lnNum n).natAbs * one64) (lnDen n)

/-- The pattern of a datum: sign, 11 bits of exponent, 52 bits of fraction; the NaN is the quiet one with no payload. -/
def pattern64 (x : Datum64) : Binary64 :=
  match x with
  | .nan => 0x7FF8000000000000
  | .inf s => (if s then 1 else 0 : BitVec 1) ++ (2047 : BitVec 11) ++ (0 : BitVec 52)
  | .fin s n =>
    let k := Nat.log2 n - 52
    let (e, f) := if n < 2 ^ 52 then (0, n) else (k + 1, n / 2 ^ k - 2 ^ 52)
    (if s then 1 else 0 : BitVec 1) ++ BitVec.ofNat 11 e ++ BitVec.ofNat 52 f

end Sys2Proof.Machine
end

