-- ==== Sys2Proof/Machine/Thermistor.lean ====
section
/-! DEFINITION. The reference formula of the thermistor conversion (41_gpio.md R226; 93_implementation_defined.md G7): "from
general knowledge, not in source", "evaluated in binary64 arithmetic with the natural logarithm `ln`", and the build that
binds `THERM_FN` to it. Beside it the same formula over the real numbers, for statements about its accuracy (log 8). -/

namespace Sys2Proof.Machine

/-- The number of a B-coefficient (00_scope.md R9). -/
def bValue (b : BCoeff) : Nat :=
  match b with
  | .b3975 => 3975
  | .b4250 => 4250

/-- `R = (1023 - a) * 10000 / a` in binary64; `1023 - a` and its product with 10000 are exact there (41_gpio.md R226). -/
def resistance64 (a : Nat) : Datum64 :=
  div64 (mul64 (sub64 (literal64 1023 1) (literal64 a 1)) (literal64 10000 1)) (literal64 a 1)

/-- `ln(R / 10000) / B + 1 / 298.15` in binary64 (41_gpio.md R226). -/
def denominator64 (a : Nat) (b : BCoeff) : Datum64 :=
  add64 (div64 (ln64 (div64 (resistance64 a) (literal64 10000 1))) (literal64 (bValue b) 1))
    (div64 (literal64 1 1) (literal64 29815 100))

/-- `T = 1 / (ln(R / 10000) / B + 1 / 298.15) - 273.15` in binary64 (41_gpio.md R226). -/
def temperature64 (a : Nat) (b : BCoeff) : Datum64 :=
  sub64 (div64 (literal64 1 1) (denominator64 a b)) (literal64 27315 100)

/-- The reference `THERM_FN`: the binary64 pattern of the reference temperature (41_gpio.md R226). -/
def thermReference64 : ThermFn := fun a b => pattern64 (temperature64 a b)

/-- The parameters of a build whose `THERM_FN` is the reference formula (41_gpio.md R226; 93_implementation_defined.md U22). -/
def referenceParams : Params := { defaultParams with thermFn := thermReference64 }

/-- `R = (1023 - a) * 10000 / a`, over the real numbers (41_gpio.md R226). -/
noncomputable def thermResistance (a : Nat) : ℝ := (1023 - (a : ℝ)) * 10000 / a

/-- `ln(R / 10000) / B + 1 / 298.15`, whose inverse is the temperature in kelvin, over the real numbers (41_gpio.md R226). -/
noncomputable def thermDenominator (a : Nat) (b : BCoeff) : ℝ :=
  Real.log (thermResistance a / 10000) / (bValue b : ℝ) + 1 / 298.15

/-- `T = 1 / (ln(R / 10000) / B + 1 / 298.15) - 273.15`, over the real numbers (41_gpio.md R226). -/
noncomputable def thermReference (a : Nat) (b : BCoeff) : ℝ := 1 / thermDenominator a b - 273.15

end Sys2Proof.Machine
end

