-- ==== Sys2Proof/Machine/Reference.lean ====
section
/-! DEFINITION. The reference semantics of one command "as one function" (40_core.md R160), over the transport's answers
in the order in which they are taken. The engine's steps refine it; the waits are counted in ticks
(70_reset_and_hazards.md R404). -/

namespace Sys2Proof.Machine

/-- How a command ended: its outcome registers, what happened on the bus in order, and the ticks of the waits it ran. -/
structure Finished where
  status : Status
  result : Reg Result
  diag : Reg Diag
  bus : List BusEvent
  waited : Nat
deriving DecidableEq, Repr

/-- `raise BusError(diag)`: the command ends at once (40_core.md R160; 60_exceptions.md R354). -/
def refBusError (d : Diag) (bus : List BusEvent) (waited : Nat) : Finished :=
  { status := .busError, result := .unwritten, diag := .holds d, bus, waited }

/-- The registers a decode reads, with everything else as reset leaves it (40_core.md R180). -/
def refRegisters (a1 : Word) (rb : Reg Byte) (bs : List Byte) : State :=
  { State.reset with arg1 := .holds a1, rb := rb, resp := bs, rcnt := BitVec.ofNat 5 bs.length }

/-- `wait(e.d2)`, then `return decode(e.fmt)` (40_core.md R160, R170, R180). -/
def refDecode (F : ThermFn) (e : CtEntry) (a1 : Word) (rb : Reg Byte) (bs : List Byte) (bus : List BusEvent) (waited : Nat) :
    Option Finished :=
  match decodePayload F e.fmt (refRegisters a1 rb bs) with
  | .error _ => none
  | .ok v =>
    some
      { status := v.status
        result := match v with
          | .ok r => .holds r
          | .noData | .invalidReading => .unwritten
        diag := .unwritten
        bus
        waited := waited + ticks e.d2 }

/-- The block read and what follows it (40_core.md R160). -/
def refBlock (F : ThermFn) (e : CtEntry) (a1 : Word) (rb : Reg Byte) (answers : List Answer) (bus : List BusEvent) (waited : Nat) :
    Option Finished :=
  match answers with
  | [] => none
  | .fail d :: _ => some (refBusError d (bus ++ [.issued (.rdn e.raddr e.rlen), .answered (.fail d)]) waited)
  | .ok bs :: _ =>
    if e.rlen.toNat < bs.length then none
    else refDecode F e a1 rb bs (bus ++ [.issued (.rdn e.raddr e.rlen), .answered (.ok bs)]) waited

/-- The one-byte read, of the command's own byte or of the discarded one, and what follows it (40_core.md R160). -/
def refByte (F : ThermFn) (e : CtEntry) (a1 : Word) (answers : List Answer) (bus : List BusEvent) (waited : Nat) : Option Finished :=
  match answers with
  | [] => none
  | .fail d :: _ => some (refBusError d (bus ++ [.issued (.rd1 .main), .answered (.fail d)]) waited)
  | .ok [] :: _ => none
  | .ok (b :: bs) :: rest =>
    match e.rk with
    | .byte =>
      refDecode F e a1 (.holds b) [] (bus ++ [.issued (.rd1 .main), .answered (.ok (b :: bs))]) waited
    | .none | .block =>
      refBlock F e a1 (.holds b) rest (bus ++ [.issued (.rd1 .main), .answered (.ok (b :: bs))]) waited

/-- What follows the settle wait (40_core.md R160, R169). A block read without a discard read starts with RB unwritten. The one decode
that this can show in is that of a build's block row with `disc = 0` and `F_BYTE`: the reference has no outcome for it, where the
engine answers the byte that an earlier command left in RB. That the two part there is the model's DESIGN CHOICE (log 30); for
the default table they agree. -/
def refReads (F : ThermFn) (e : CtEntry) (a1 : Word) (answers : List Answer) (bus : List BusEvent) (waited : Nat) :
    Option Finished :=
  match e.rk with
  | .none => some { status := .ok, result := .holds .none, diag := .unwritten, bus, waited }
  | .byte => refByte F e a1 answers bus waited
  | .block => if e.disc then refByte F e a1 answers bus waited else refBlock F e a1 .unwritten answers bus waited

/-- `execute(c, a0, a1, a2)` (40_core.md R160), given the transport's answers: none where the id names no command, where
the answers end before the command does, where the transport breaks its contract, or where the decode reads an unwritten register:
for a build's block row with `disc = 0` and `F_BYTE`, whatever an earlier command left in RB (DESIGN CHOICE, log 30). The
waits are counted without a bound, where the engine's DLY wraps from 2^32 ticks on (log 20). -/
def execute (G : Params) (c : CmdId) (a0 a1 a2 : Word) (answers : List Answer) : Option Finished :=
  match lookup G.table c with
  | none => none
  | some e =>
    match answers with
    | [] => none
    | .fail d :: _ =>
      some (refBusError d [.issued (.wr4 .main (encodeFrame e a0 a1 a2)), .answered (.fail d)] 0)
    | .ok x :: rest =>
      refReads G.thermFn e a1 rest [.issued (.wr4 .main (encodeFrame e a0 a1 a2)), .answered (.ok x)]
        (settle e (encodeFrame e a0 a1 a2))

end Sys2Proof.Machine
end

