-- ==== Sys2Proof/Safety.lean ====
section
/-! DEFINITION. What holds of every state of a run, and the words in which claims about runs are made. -/

namespace Sys2Proof.Machine

/-- The ranges of a decoded value (10_state.md R41; 40_core.md R185, R191 to R195): accelerometer components -191 to 32, a
temperature that is no NaN, raw blocks of 5 or 21 bytes, sentinel values below 2^24 under a header other than 255. -/
def Result.inRange (r : Result) : Prop :=
  match r with
  | .none | .byte _ | .u16 _ | .dht _ _ | .version _ _ _ => True
  | .acc x y z => (-191 ≤ x ∧ x ≤ 32) ∧ (-191 ≤ y ∧ y ≤ 32) ∧ (-191 ≤ z ∧ z ≤ 32)
  | .temp t => isNaN64 t = false
  | .raw bs => bs.length = 5 ∨ bs.length = 21
  | .sent hdr v => hdr ≠ 255 ∧ v < 2 ^ 24

/-- The register holds a value. -/
def Reg.written {α : Type} (r : Reg α) : Prop := r ≠ .unwritten

/-- The outcome registers of a finished command: exactly one of the four outcomes, with a value exactly for `OK` and a
diagnostic exactly for `BUS_ERROR` (60_exceptions.md R350, R354, R355). -/
def State.outcomeOk (s : State) : Prop :=
  match s.status with
  | .unwritten => False
  | .holds .ok => s.result.written ∧ s.diag = .unwritten
  | .holds .busError => s.result = .unwritten ∧ s.diag.written
  | .holds .noData | .holds .invalidReading => s.result = .unwritten ∧ s.diag = .unwritten

/-- The outcome registers are unwritten, as accept leaves them (40_core.md R162). -/
def State.outcomeClear (s : State) : Prop :=
  s.status = .unwritten ∧ s.result = .unwritten ∧ s.diag = .unwritten

/-- What holds in a phase, of a command whose table entry is `e` (10_state.md R32; 40_core.md R162 to R176). -/
def State.phaseOk (e : CtEntry) (s : State) : Prop :=
  match s.phase with
  | .idle => True
  | .write | .wait1 => s.resp = [] ∧ s.outcomeClear
  | .rdByte => s.resp = [] ∧ s.outcomeClear ∧ (e.rk = .byte ∨ (e.rk = .block ∧ e.disc = true))
  | .rdBlk => s.resp = [] ∧ s.outcomeClear ∧ e.rk = .block
  | .wait2 | .decode =>
    s.outcomeClear ∧ ((e.rk = .byte ∧ s.rb.written ∧ s.resp = []) ∨ (e.rk = .block ∧ s.resp.length ≤ e.rlen.toNat))
  | .done => s.outcomeOk

/-- Outside IDLE the request of a command is latched, its frame is the encoder's, and the phase's own conditions hold
(10_state.md R33 to R35; 40_core.md R162). -/
def State.latchedOk (T : CommandTable) (s : State) : Prop :=
  s.phase = .idle ∨
    ∃ c e a0 a1 a2, s.cmd = .holds c ∧ lookup T c = some e ∧ s.arg0 = .holds a0 ∧ s.arg1 = .holds a1 ∧
      s.arg2 = .holds a2 ∧ s.frame = .holds (encodeFrame e a0 a1 a2) ∧ s.phaseOk e

/-- What holds of every state of a run. -/
structure Inv (T : CommandTable) (s : State) : Prop where
  /-- The delay register counts only in a wait, and is 0 elsewhere (10_state.md R36). -/
  dlyIdle : s.phase.waiting = false → s.dly = 0
  /-- "Its largest loaded value is 255051" (10_state.md R36). -/
  dlyBound : s.dly.toNat ≤ 255051
  /-- `RESP` holds what fits it (10_state.md R38). -/
  respCap : s.resp.length ≤ Config.respCap
  /-- `RCNT` counts the bytes delivered (10_state.md R39). -/
  rcntResp : s.rcnt.toNat = s.resp.length
  /-- A decoded value is within the ranges of its format (10_state.md R41). -/
  resultRange : ∀ r, s.result = .holds r → r.inRange
  /-- The latched request and the phase agree. -/
  latched : s.latchedOk T

/-- The operation outstanding at the transport port after one more event, `some none` where there is none; `none` where the
event breaks the handshake: a second operation while one is outstanding, or an answer to nothing (10_state.md R47). -/
def portAfter (st : Option (Option BusOp)) (ev : BusEvent) : Option (Option BusOp) :=
  match st, ev with
  | some none, .issued op => some (some op)
  | some (some _), .answered _ => some none
  | some (some _), .abandoned => some none
  | _, _ => none

/-- The operation outstanding after the events at the transport port, in order (10_state.md R47). -/
def outstanding (evs : List BusEvent) : Option (Option BusOp) := evs.foldl portAfter (some none)

/-- The port's history keeps the handshake, and the operation it leaves outstanding is the one the engine presents
(10_state.md R47; 20_memory.md R94). -/
def State.portOk (T : CommandTable) (s : State) : Prop := outstanding s.trace = some (s.tOp T)

/-- Faults that only a transport outside its contract can cause (93_implementation_defined.md U9; log 11). -/
def Fault.ofTransport (f : Fault) : Bool :=
  match f with
  | .overlongDelivery | .missingByte => true
  | .unwrittenRead _ | .noTableEntry => false

/-- No request was refused since reset (60_exceptions.md R360). -/
def State.noneRefused (s : State) : Prop := s.refused = false

/-- The answers that the transport port has taken, in order. -/
def answersOf (evs : List BusEvent) : List Answer :=
  evs.filterMap fun ev =>
    match ev with
    | .answered a => some a
    | .issued _ | .abandoned => none

end Sys2Proof.Machine
end

