-- ==== Sys2Proof/Certificates/Slice0/Obligations.lean ====
section
/-! DEFINITION. The statements for the provers. A statement about a command says what the environment delivers (the events
still to come, `s.inputs`) and gives the whole next state, so that it is the command's result and its frame at once:
every register of 10_state.md R30, the events that remain, and every operation on the bus in order. -/

namespace Sys2Proof.Claims

open Sys2Proof.Machine

/-- The transport acknowledges the frame write (with whatever it leaves on `t_rdata`), `m` ticks pass, and the engine is
scheduled for the exit of the settle wait; then `more` follows. -/
def settled (x : List Byte) (m : Nat) (more : List Input) : List Input :=
  .answer (.ok x) :: (List.replicate m .tick ++ .go :: more)

/-- The transport delivers `x` for the last read of a command, `n` ticks pass, and the engine is scheduled for the exit of the
hold and for the decode; then `rest` follows. -/
def lastRead (x : List Byte) (n : Nat) (rest : List Input) : List Input :=
  .answer (.ok x) :: (List.replicate n .tick ++ .go :: .go :: rest)

/-- The bus sees an acknowledged frame write, always at `ADDR_MAIN`. -/
def busWrite (f : Frame) (x : List Byte) : List BusEvent := [.issued (.wr4 .main f), .answered (.ok x)]

/-- The bus sees a one-byte read that delivers `x`, always at `ADDR_MAIN`. -/
def busByte (x : List Byte) : List BusEvent := [.issued (.rd1 .main), .answered (.ok x)]

/-- The bus sees a block read of `n` bytes that delivers `x`. -/
def busBlock (a : BusAddr) (n : BitVec 5) (x : List Byte) : List BusEvent :=
  [.issued (.rdn a n), .answered (.ok x)]

/-- The state in which a write-only command ends with `OK` and `none`: the registers accept writes, `DLY` at 0, an empty response
buffer, and everything else as in `s`. -/
def wrote (s : State) (c : CmdId) (a0 a1 a2 : Word) (f : Frame) (x : List Byte) (rest : List Input) : State :=
  { phase := .done
    cmd := .holds c
    arg0 := .holds a0
    arg1 := .holds a1
    arg2 := .holds a2
    frame := .holds f
    dly := 0
    rb := s.rb
    resp := []
    rcnt := 0
    status := .holds .ok
    result := .holds .none
    diag := .unwritten
    refused := s.refused
    inputs := rest
    trace := s.trace ++ busWrite f x }

/-- The state in which a command whose block read delivered `bs` ends with outcome `st` and result `res`. -/
def readBlock (s : State) (c : CmdId) (a0 a1 a2 : Word) (f : Frame) (rb : Reg Byte) (bs : List Byte) (st : Status)
    (res : Reg Result) (bus : List BusEvent) (rest : List Input) : State :=
  { phase := .done
    cmd := .holds c
    arg0 := .holds a0
    arg1 := .holds a1
    arg2 := .holds a2
    frame := .holds f
    dly := 0
    rb := rb
    resp := bs
    rcnt := BitVec.ofNat 5 bs.length
    status := .holds st
    result := res
    diag := .unwritten
    refused := s.refused
    inputs := rest
    trace := s.trace ++ bus }

/-- The state in which a command ends with `BUS_ERROR` and the diagnostic `d`, before any block was read. -/
def busErrored (s : State) (i : Instr) (dly : BitVec 32) (rb : Reg Byte) (d : Diag) (bus : List BusEvent)
    (rest : List Input) : State :=
  { phase := .done
    cmd := .holds i.id
    arg0 := .holds i.arg0
    arg1 := .holds i.arg1
    arg2 := .holds i.arg2
    frame := .holds (encode i)
    dly := dly
    rb := rb
    resp := []
    rcnt := 0
    status := .holds .busError
    result := .unwritten
    diag := .holds d
    refused := s.refused
    inputs := rest
    trace := s.trace ++ bus }

/-- The frame `[b0, b1, b2, b3]` that carries the low bytes of its arguments. -/
def frame1 (opc : Byte) (a0 : Word) : Frame := ⟨opc, lo8 a0, 0, 0⟩

/-- The frame `[opc, lo8(a0), lo8(a1), 0]`. -/
def frame2 (opc : Byte) (a0 a1 : Word) : Frame := ⟨opc, lo8 a0, lo8 a1, 0⟩

/-- The frame `[opc, lo8(a0), lo8(a1), lo8(a2)]`. -/
def frame3 (opc : Byte) (a0 a1 a2 : Word) : Frame := ⟨opc, lo8 a0, lo8 a1, lo8 a2⟩

/-- The frame `[opc, lo8(a0), lo8(a1), hi8(a1)]`. -/
def frameLH (opc : Byte) (a0 a1 : Word) : Frame := ⟨opc, lo8 a0, lo8 a1, hi8 a1⟩

/-- The frame `[opc, 0, 0, 0]`. -/
def frame0 (opc : Byte) : Frame := ⟨opc, 0, 0, 0⟩

/-- The minimum ticks of each command, from the table of 70_reset_and_hazards.md R404. -/
def minimumTicks (i : Instr) : Nat :=
  match i with
  | .digitalRead _ _ _ | .version _ _ _ | .rtcGetTime _ _ _ | .accXyz _ _ _ | .irRead _ _ _ => 101
  | .analogRead _ _ _ | .thermRead _ _ _ => 202
  | .ultrasonicRead _ _ _ | .ledbarGet _ _ _ | .dustRead _ _ _ | .encRead _ _ _ | .flowRead _ _ _ => 201
  | .dustEn _ _ _ | .dustDis _ _ _ | .encEn _ _ _ | .encDis _ _ _ | .flowEn _ _ _ | .flowDis _ _ _ => 201
  | .dhtRead _ _ _ => 702
  | .fdMonitor _ _ duration => 1000 * (lo8 duration).toNat + 51
  | .fdBrightness _ _ _ | .fdValue _ _ _ | .fdValueZeros _ _ _ | .fdDigit _ _ _ | .fdSegment _ _ _ => 51
  | .fdScore _ _ _ | .fdAllOn _ _ _ | .fdAllOff _ _ _ => 51
  | .rgbStoreColor _ _ _ | .rgbInit _ _ _ | .rgbTest _ _ _ | .rgbPattern _ _ _ | .rgbModulo _ _ _ => 51
  | .rgbLevel _ _ _ => 51
  | .digitalWrite _ _ _ | .analogWrite _ _ _ | .pinMode _ _ _ | .fdInit _ _ _ | .ledbarInit _ _ _ => 0
  | .ledbarOrient _ _ _ | .ledbarLevel _ _ _ | .ledbarSetOne _ _ _ | .ledbarToggleOne _ _ _ => 0
  | .ledbarSet _ _ _ | .irRecvPin _ _ _ => 0

/-- The exact value of a finite binary32, from its sign, exponent and fraction fields (40_core.md R189, `exact(f)`). -/
def exact32 (f : Binary32) : ℚ :=
  (if f.toNat / 2 ^ 31 = 1 then -1 else 1) *
    (if f.toNat / 2 ^ 23 % 256 = 0 then (f.toNat % 2 ^ 23 : ℕ) * (2 : ℚ) ^ (-149 : ℤ)
     else (2 ^ 23 + f.toNat % 2 ^ 23 : ℕ) * (2 : ℚ) ^ ((f.toNat / 2 ^ 23 % 256 : ℕ) - 150 : ℤ))

/-- The exact value of a finite binary64, from its sign, exponent and fraction fields. -/
def exact64 (t : Binary64) : ℚ :=
  (if t.toNat / 2 ^ 63 = 1 then -1 else 1) *
    (if t.toNat / 2 ^ 52 % 2048 = 0 then (t.toNat % 2 ^ 52 : ℕ) * (2 : ℚ) ^ (-1074 : ℤ)
     else (2 ^ 52 + t.toNat % 2 ^ 52 : ℕ) * (2 : ℚ) ^ ((t.toNat / 2 ^ 52 % 2048 : ℕ) - 1075 : ℤ))

/-- The exponent field of a binary32 is all ones. -/
def expoOnes (f : Binary32) : Prop := f.toNat / 2 ^ 23 % 256 = 255

/-- The fraction field of a binary32 is 0. -/
def fracZero (f : Binary32) : Prop := f.toNat % 2 ^ 23 = 0

end Sys2Proof.Claims

open Sys2Proof Sys2Proof.Machine Sys2Proof.Claims

/-! ### Encoding and decoding -/

/-- Every well-formed command but `therm_read` is read back from its frame, all operands included; `therm_read` is read
as the `analog_read` whose frame it sends (30_encoding.md R110, R116, R122). -/
def Obligations.FramesDecodeToTheirCommands : Prop :=
  (∀ i : Instr, i.wellFormed = true → (∀ p m u, i ≠ .thermRead p m u) → decode (encode i).bytes = .ok i) ∧
  (∀ p m u : Word, (Instr.thermRead p m u).wellFormed = true →
    decode (encode (.thermRead p m u)).bytes = .ok (.analogRead p 0 0))

/-- The decoder takes nothing but frames the encoder can send: what it reads is well-formed, and encoding it gives the same four
bytes (30_encoding.md R110, R123). -/
def Obligations.DecodedBytesAreTheCommandsFrame : Prop :=
  ∀ (bs : List Byte) (i : Instr), decode bs = .ok i → i.wellFormed = true ∧ (encode i).bytes = bs

/-- Frames written out from the spec's encodings name their commands (95_test_vectors.md L2.1, L2.2). -/
def Obligations.SampleFramesDecode : Prop :=
  decode [1, 2, 0, 0] = .ok (.digitalRead 2 0 0) ∧
  decode [56, 3, 0, 0] = .ok (.ledbarGet 3 0 0) ∧
  decode [72, 5, 210, 4] = .ok (.fdValue 5 1234 0) ∧
  decode [90, 255, 0, 128] = .ok (.rgbStoreColor 255 0 128) ∧
  decode [5, 4, 1, 0] = .ok (.pinMode 4 1 0) ∧
  decode [40, 4, 0, 0] = .ok (.dhtRead 4 0 0) ∧
  decode [10, 0, 0, 0] = .ok (.dustRead 0 0 0)

/-- A table word has the opcode in its top byte and the slots below it, and is read as that frame (30_encoding.md R111). -/
def Obligations.TableWordsAreFramesOpcodeFirst : Prop :=
  ∀ (b0 b1 b2 b3 : Byte),
    decodeTableWord 32 (b0 ++ b1 ++ b2 ++ b3).toNat = (decode [b0, b1, b2, b3]).toOption

/-- The frame bytes of an argument: the low byte, the second byte and bit 0 of its two's-complement pattern (40_core.md R196;
30_encoding.md R113 to R115). -/
def Obligations.FrameBytesTruncateTheArgument : Prop :=
  ∀ v : Word, (lo8 v).toNat = v.toNat % 256 ∧ (hi8 v).toNat = v.toNat / 256 % 256 ∧ (modeBit v).toNat = v.toNat % 2

/-- The default table has an entry for each of the 45 ids, passes the check of a build's table, has distinct opcodes but for
`therm_read`, and asks every block for the bytes its format needs (10_state.md R49, R50, R59; 40_core.md R187). -/
def Obligations.DefaultTableIsLegal : Prop :=
  (∀ c : CmdId, (lookup commandTable c).isSome = true ↔ c.toNat ≤ 44) ∧
  configure commandTable = some commandTable ∧
  opcodesDistinct commandTable = true ∧
  (∀ (c : CmdId) (e : CtEntry), lookup commandTable c = some e → e.rk = .block → bytesNeeded e.fmt ≤ e.rlen.toNat)

/-- Assembling a command's mnemonic with its operands gives the command, for every well-formed command; `therm_read` takes two
operands; `ledbar_set`, `fd_value` and `fd_value_zeros` take the three that their layout's non-`Z` selectors count, of any value,
and the omitted third is 0; one operand more than a command takes is refused (30_encoding.md R126). -/
def Obligations.AssemblerReadsEveryCommand : Prop :=
  (∀ i : Instr, i.wellFormed = true → (∀ p m u, i ≠ .thermRead p m u) →
    assemble (mnemonicOf i) (operandsOf i) = some i) ∧
  (∀ p m : Word, fitsByte p = true → assemble "therm_read" [numOperand p, numOperand m] = some (.thermRead p m 0)) ∧
  (∀ p v w : Word,
    assemble "ledbar_set" [numOperand p, numOperand v, numOperand w] = some (.ledbarSet p v w) ∧
    assemble "ledbar_set" [numOperand p, numOperand v] = some (.ledbarSet p v 0) ∧
    assemble "fd_value" [numOperand p, numOperand v, numOperand w] = some (.fdValue p v w) ∧
    assemble "fd_value" [numOperand p, numOperand v] = some (.fdValue p v 0) ∧
    assemble "fd_value_zeros" [numOperand p, numOperand v, numOperand w] = some (.fdValueZeros p v w) ∧
    assemble "fd_value_zeros" [numOperand p, numOperand v] = some (.fdValueZeros p v 0)) ∧
  (∀ (i : Instr) (x : Operand), assemble (mnemonicOf i) (operandsOf i ++ [x]) = none)

/-! ### The step -/

/-- At a ready engine a request of a command is run: the step is `exec` of that command, the request taken off the events. At a busy
engine the step goes on with the command in progress. With no event to come nothing happens. The engine takes at most one of its own
steps at a time (40_core.md R177): that one step of this machine is a whole command, `exec` or the further run `drive` through all the
events to come, is the model's own choice of grain (log 4, over the list of events of log 2). -/
def Obligations.StepRunsTheRequestedCommand : Prop :=
  (∀ (s : State) (i : Instr) (rest : List Input), s.ready = true → s.inputs = .req i.id i.arg0 i.arg1 i.arg2 :: rest →
    step s = exec i { s with inputs := rest }) ∧
  (∀ s : State, s.ready = false → step s = drive defaultParams s.inputs s) ∧
  (∀ s : State, s.inputs = [] → step s = .next s)

/-- The command a frame names, placed by `withFetchWord`, is the one the next step runs, at a ready engine and with the events to come
unchanged. -/
def Obligations.StepRunsThePlacedFrame : Prop :=
  ∀ (s : State) (w : Nat) (i : Instr), decodeTableWord 32 w = some i →
    step (s.withFetchWord 32 w) = exec i { s with phase := if s.ready then s.phase else .idle }

/-- Accept: at a ready engine a request of an id up to 44 is latched, its frame is built from its table entry, the outcome of the last
command becomes unwritten, and the frame write is presented; at a busy engine a request has no effect (40_core.md R162). -/
def Obligations.AcceptLatchesTheRequest : Prop :=
  ∀ (s : State) (c : CmdId) (a0 a1 a2 : Word),
    (s.ready = true → c.toNat ≤ 44 →
      ∃ e, lookup commandTable c = some e ∧
        engineStep defaultParams (.req c a0 a1 a2) s =
          .next { s with
            phase := .write, cmd := .holds c, arg0 := .holds a0, arg1 := .holds a1, arg2 := .holds a2
            frame := .holds ⟨e.opc, sel e.s1 a0 a1 a2, sel e.s2 a0 a1 a2, sel e.s3 a0 a1 a2⟩
            rcnt := 0, resp := [], status := .unwritten, result := .unwritten, diag := .unwritten
            trace := s.trace ++ [.issued (.wr4 .main ⟨e.opc, sel e.s1 a0 a1 a2, sel e.s2 a0 a1 a2, sel e.s3 a0 a1 a2⟩)] }) ∧
    (s.ready = false → engineStep defaultParams (.req c a0 a1 a2) s = .next s)

/-- Every command is accepted with its frame: with no event to come it ends in WRITE, its request latched and its frame presented; at a
busy engine it has no effect (40_core.md R162, R163; 10_state.md R33 to R35). -/
def Obligations.EveryCommandIsAcceptedWithItsFrame : Prop :=
  ∀ (i : Instr) (s : State),
    (s.ready = true → s.inputs = [] →
      exec i s = .next { s with
        phase := .write, cmd := .holds i.id, arg0 := .holds i.arg0, arg1 := .holds i.arg1, arg2 := .holds i.arg2
        frame := .holds (encode i), rcnt := 0, resp := [], status := .unwritten, result := .unwritten, diag := .unwritten
        trace := s.trace ++ [.issued (.wr4 .main (encode i))] }) ∧
    (s.ready = false → exec i s = .next s)

/-- Refusal: a request of an id from 45 on sets REFUSED and PHASE to IDLE and changes nothing else: no error kind, no bus operation; the
caller sees `refused = 1` and `done = 0` (40_core.md R161). -/
def Obligations.RefusalOnlyMarksAndGoesIdle : Prop :=
  ∀ (s : State) (c : CmdId) (a0 a1 a2 : Word) (rest : List Input),
    s.ready = true → 45 ≤ c.toNat → s.inputs = .req c a0 a1 a2 :: rest →
      step s = .next { s with phase := .idle, refused := true, inputs := rest } ∧
      State.refusedOut { s with phase := .idle, refused := true, inputs := rest } = true ∧
      State.doneOut { s with phase := .idle, refused := true, inputs := rest } = false

/-- A refusal stays marked: no step clears REFUSED unless the reset input comes (10_state.md R43; 60_exceptions.md R360). -/
def Obligations.RefusedIsSticky : Prop :=
  ∀ s t : State, s.refused = true → .rst ∉ s.inputs → step s = .next t → t.refused = true

/-- Reset is taken in every phase, a command in progress included: every register at its reset value, an outstanding operation abandoned
(70_reset_and_hazards.md R390; 10_state.md R61). -/
def Obligations.ResetIsTakenInEveryPhase : Prop :=
  ∀ (s : State) (rest : List Input), s.inputs = .rst :: rest →
    step s = .next
      { phase := .idle, cmd := .unwritten, arg0 := .unwritten, arg1 := .unwritten, arg2 := .unwritten, frame := .unwritten
        dly := 0, rb := .unwritten, resp := [], rcnt := 0, status := .unwritten, result := .unwritten, diag := .unwritten
        refused := false, inputs := rest
        trace := s.trace ++ (if s.phase = .write ∨ s.phase = .rdByte ∨ s.phase = .rdBlk then [.abandoned] else []) }

/-- The state after reset: IDLE, `DLY`, `RCNT` and `REFUSED` at 0, every other register unwritten; the block is ready, not done, and
presents no operation (10_state.md R61; 70_reset_and_hazards.md R391). That no event is to come and none is past is the model's choice
(log 2, log 3). -/
def Obligations.ResetStateIsReady : Prop :=
  State.reset.phase = .idle ∧ State.reset.dly = 0 ∧ State.reset.rcnt = 0 ∧ State.reset.refused = false ∧
  State.reset.cmd = .unwritten ∧ State.reset.arg0 = .unwritten ∧ State.reset.arg1 = .unwritten ∧
  State.reset.arg2 = .unwritten ∧ State.reset.frame = .unwritten ∧ State.reset.rb = .unwritten ∧
  (∀ i, State.reset.respAt i = .unwritten) ∧ State.reset.status = .unwritten ∧ State.reset.result = .unwritten ∧
  State.reset.diag = .unwritten ∧
  State.reset.ready = true ∧ State.reset.doneOut = false ∧ State.reset.refusedOut = false ∧ State.reset.tReq = false ∧
  State.reset.inputs = [] ∧ State.reset.trace = []

/-! ### The engine's rules, phase by phase -/

/-- A failed transport operation ends the command in the same step, in each of the three phases that wait for the transport (40_core.md
R165, R172, R175). -/
def Obligations.FailedOperationEndsTheCommand : Prop :=
  ∀ (s : State) (d : Diag), s.phase = .write ∨ s.phase = .rdByte ∨ s.phase = .rdBlk →
    engineStep defaultParams (.answer (.fail d)) s =
      .next { s with
        phase := .done, status := .holds .busError, diag := .holds d
        trace := s.trace ++ [.answered (.fail d)] }

/-- A successful frame write loads the settle count and enters WAIT1 (40_core.md R164, R166, R167). -/
def Obligations.WriteSuccessLoadsTheSettleCount : Prop :=
  ∀ (s : State) (x : List Byte) (c : CmdId) (e : CtEntry) (f : Frame),
    s.phase = .write → s.cmd = .holds c → lookup commandTable c = some e → s.frame = .holds f →
      engineStep defaultParams (.answer (.ok x)) s =
        .next { s with
          phase := .wait1
          dly := match e.d1 with
            | .ms 0 => 0
            | .ms (d + 1) => BitVec.ofNat 32 (d + 2)
            | .mon => BitVec.ofNat 32 (1000 * f.p3.toNat + 51)
          trace := s.trace ++ [.answered (.ok x)] }

/-- A tick counts in WAIT1 and WAIT2 with `DLY > 0` and nowhere else; the exit of a wait is taken only with `DLY = 0`, and then needs no
tick (40_core.md R168; 70_reset_and_hazards.md R395). -/
def Obligations.TicksCountOnlyInWaits : Prop :=
  (∀ s : State, s.phase = .wait1 ∨ s.phase = .wait2 → s.dly ≠ 0 →
    engineStep defaultParams .tick s = .next { s with dly := s.dly - 1 } ∧
    engineStep defaultParams .go s = .next s) ∧
  (∀ s : State, s.dly = 0 ∨ (s.phase ≠ .wait1 ∧ s.phase ≠ .wait2) → engineStep defaultParams .tick s = .next s) ∧
  (∀ s : State, s.phase = .wait2 → s.dly = 0 → engineStep defaultParams .go s = .next { s with phase := .decode })

/-- The exit from WAIT1: a write-only command ends with `OK` and `none`, a byte read or a discard read is presented at `ADDR_MAIN`, or the
block read at the entry's address (40_core.md R169; 90_conflicts.md C15). -/
def Obligations.ExitFromTheSettleWait : Prop :=
  ∀ (s : State) (c : CmdId) (e : CtEntry),
    s.phase = .wait1 → s.dly = 0 → s.cmd = .holds c → lookup commandTable c = some e →
      engineStep defaultParams .go s =
        .next (if e.rk = .none then { s with phase := .done, status := .holds .ok, result := .holds .none }
          else if e.rk = .byte ∨ e.disc = true then
            { s with phase := .rdByte, trace := s.trace ++ [.issued (.rd1 .main)] }
          else { s with phase := .rdBlk, trace := s.trace ++ [.issued (.rdn e.raddr e.rlen)] })

/-- A delivered byte goes to RB; a command's own byte starts the hold, a discarded one the block read (40_core.md R170, R171). -/
def Obligations.ByteReadFillsRb : Prop :=
  ∀ (s : State) (b : Byte) (x : List Byte) (c : CmdId) (e : CtEntry),
    s.phase = .rdByte → s.cmd = .holds c → lookup commandTable c = some e →
      engineStep defaultParams (.answer (.ok (b :: x))) s =
        .next (if e.rk = .byte then
            { s with
              phase := .wait2, rb := .holds b, dly := BitVec.ofNat 32 (if e.d2 = 0 then 0 else e.d2 + 1)
              trace := s.trace ++ [.answered (.ok (b :: x))] }
          else
            { s with
              phase := .rdBlk, rb := .holds b
              trace := s.trace ++ [.answered (.ok (b :: x)), .issued (.rdn e.raddr e.rlen)] })

/-- A delivered block goes to RESP with its length in RCNT, the bytes beyond it unwritten, and starts the hold; a block longer than asked
for is a fault of the environment (40_core.md R170, R174; 10_state.md R47; 93_implementation_defined.md U9). -/
def Obligations.BlockReadFillsResp : Prop :=
  ∀ (s : State) (x : List Byte) (c : CmdId) (e : CtEntry),
    s.phase = .rdBlk → s.cmd = .holds c → lookup commandTable c = some e →
      (x.length ≤ e.rlen.toNat → ∃ t, engineStep defaultParams (.answer (.ok x)) s = .next t ∧
        t = { s with
          phase := .wait2, dly := BitVec.ofNat 32 (if e.d2 = 0 then 0 else e.d2 + 1), resp := t.resp
          rcnt := BitVec.ofNat 5 x.length, trace := s.trace ++ [.answered (.ok x)] } ∧
        (∀ i, t.respAt i = match x[i]? with | some b => .holds b | none => .unwritten)) ∧
      (e.rlen.toNat < x.length → engineStep defaultParams (.answer (.ok x)) s = .fault .overlongDelivery)

/-- The decode step: the verdict of the entry's format goes to STATUS, a value to RESULT only with `OK`, and nothing else changes but the
phase (40_core.md R176; 60_exceptions.md R355). That an error keeps what RESULT held, where the rule says it is left unwritten, is the
model's reading (log 25, DEDUCED); by the invariant RESULT is unwritten there in every run. -/
def Obligations.DecodeStepWritesTheOutcome : Prop :=
  ∀ (s : State) (c : CmdId) (e : CtEntry) (v : Verdict),
    s.phase = .decode → s.cmd = .holds c → lookup commandTable c = some e → decodePayload Config.thermFn e.fmt s = .ok v →
      engineStep defaultParams .go s =
        .next (match v with
          | .ok r => { s with phase := .done, status := .holds .ok, result := .holds r }
          | .noData => { s with phase := .done, status := .holds .noData }
          | .invalidReading => { s with phase := .done, status := .holds .invalidReading })

/-- Events that enable no step of the phase change nothing: while an operation is outstanding only its answer and reset do anything, so
the presented operation stays stable; in a wait an answer does nothing, in DECODE neither does a tick, in IDLE and DONE only a request or
reset does anything (40_core.md R177; 10_state.md R47). -/
def Obligations.OnlyEnabledEventsAct : Prop :=
  (∀ (s : State) (ev : Input), s.phase = .write ∨ s.phase = .rdByte ∨ s.phase = .rdBlk →
    ev ≠ .rst → (∀ a, ev ≠ .answer a) → engineStep defaultParams ev s = .next s) ∧
  (∀ (s : State) (a : Answer), ¬(s.phase = .write ∨ s.phase = .rdByte ∨ s.phase = .rdBlk) →
    engineStep defaultParams (.answer a) s = .next s) ∧
  (∀ s : State, s.phase = .decode → engineStep defaultParams .tick s = .next s) ∧
  (∀ s : State, s.phase = .idle ∨ s.phase = .done →
    engineStep defaultParams .go s = .next s ∧ engineStep defaultParams .tick s = .next s)

/-! ### The commands: GPIO -/

/-- `digital_write`, `analog_write` and `pin_mode` write their frame and end with `OK`, `none` (41_gpio.md R221, R223, R224). -/
def Obligations.GpioWritesComplete : Prop :=
  ∀ (s : State) (a0 a1 a2 : Word) (x : List Byte) (m : Nat) (rest : List Input),
    s.ready = true → s.inputs = settled x m rest →
      exec (.digitalWrite a0 a1 a2) s = .next (wrote s 1 a0 a1 a2 (frame2 2 a0 a1) x rest) ∧
      exec (.analogWrite a0 a1 a2) s = .next (wrote s 3 a0 a1 a2 (frame2 4 a0 a1) x rest) ∧
      exec (.pinMode a0 a1 a2) s =
        .next (wrote s 4 a0 a1 a2 ⟨5, lo8 a0, if a1.getLsbD 0 then 1 else 0, 0⟩ x rest)

/-- `digital_read` returns the byte read, raw (41_gpio.md R220). -/
def Obligations.DigitalReadCompletes : Prop :=
  ∀ (s : State) (a0 a1 a2 : Word) (x y : List Byte) (b : Byte) (m n : Nat) (rest : List Input),
    s.ready = true → 101 ≤ m → s.inputs = settled x m (lastRead (b :: y) n rest) →
      exec (.digitalRead a0 a1 a2) s =
        .next (readBlock s 0 a0 a1 a2 (frame1 1 a0) (.holds b) [] .ok (.holds (.byte b))
          (busWrite (frame1 1 a0) x ++ busByte (b :: y)) rest)

/-- `analog_read` and `ultrasonic_read` discard a byte and return `RESP[1]*256 + RESP[2]` of a block of at least three bytes (41_gpio.md
R222; 42_sensors.md R240). -/
def Obligations.AnalogAndUltrasonicReadsComplete : Prop :=
  ∀ (s : State) (a0 a1 a2 : Word) (x y more : List Byte) (b b0 hi lo : Byte) (m n : Nat) (rest : List Input),
    s.ready = true → more.length ≤ 2 →
    s.inputs = settled x m (.answer (.ok (b :: y)) :: lastRead (b0 :: hi :: lo :: more) n rest) →
      (101 ≤ m → 101 ≤ n →
        exec (.analogRead a0 a1 a2) s =
          .next (readBlock s 2 a0 a1 a2 (frame1 3 a0) (.holds b) (b0 :: hi :: lo :: more) .ok
            (.holds (.u16 (BitVec.ofNat 16 (hi.toNat * 256 + lo.toNat))))
            (busWrite (frame1 3 a0) x ++ busByte (b :: y) ++ busBlock .main 5 (b0 :: hi :: lo :: more)) rest)) ∧
      (201 ≤ m →
        exec (.ultrasonicRead a0 a1 a2) s =
          .next (readBlock s 6 a0 a1 a2 (frame1 7 a0) (.holds b) (b0 :: hi :: lo :: more) .ok
            (.holds (.u16 (BitVec.ofNat 16 (hi.toNat * 256 + lo.toNat))))
            (busWrite (frame1 7 a0) x ++ busByte (b :: y) ++ busBlock .main 5 (b0 :: hi :: lo :: more)) rest))

/-- `therm_read` reads as `analog_read` does; an analog value of 0, or of 1023 or more, is an invalid reading, and so is a NaN of
`THERM_FN`; every other value is a temperature, with the B-coefficient the model argument selects (41_gpio.md R225, R227; 40_core.md
R191). -/
def Obligations.ThermReadCompletes : Prop :=
  ∀ (s : State) (a0 a1 a2 : Word) (x y more : List Byte) (b b0 hi lo : Byte) (m n : Nat) (rest : List Input),
    s.ready = true → more.length ≤ 2 → 101 ≤ m → 101 ≤ n →
    s.inputs = settled x m (.answer (.ok (b :: y)) :: lastRead (b0 :: hi :: lo :: more) n rest) →
      exec (.thermRead a0 a1 a2) s =
        .next
          (if hi.toNat * 256 + lo.toNat = 0 ∨ 1023 ≤ hi.toNat * 256 + lo.toNat ∨
              isNaN64 (Config.thermFn (hi.toNat * 256 + lo.toNat)
                (if a1.toNat % 256 = 1 ∨ a1.toNat % 256 = 2 then .b4250 else .b3975)) = true then
            readBlock s 5 a0 a1 a2 (frame1 3 a0) (.holds b) (b0 :: hi :: lo :: more) .invalidReading .unwritten
              (busWrite (frame1 3 a0) x ++ busByte (b :: y) ++ busBlock .main 5 (b0 :: hi :: lo :: more)) rest
          else
            readBlock s 5 a0 a1 a2 (frame1 3 a0) (.holds b) (b0 :: hi :: lo :: more) .ok
              (.holds (.temp (Config.thermFn (hi.toNat * 256 + lo.toNat)
                (if a1.toNat % 256 = 1 ∨ a1.toNat % 256 = 2 then .b4250 else .b3975))))
              (busWrite (frame1 3 a0) x ++ busByte (b :: y) ++ busBlock .main 5 (b0 :: hi :: lo :: more)) rest)

/-! ### The commands: sensors -/

/-- `version` returns the triplet `RESP[1]`, `RESP[2]`, `RESP[3]` and `rtc_get_time` the raw block, each after a discarded byte
(42_sensors.md R241, R243). -/
def Obligations.VersionAndRtcReadsComplete : Prop :=
  ∀ (s : State) (a0 a1 a2 : Word) (x y more : List Byte) (b b0 b1 b2 b3 : Byte) (m n : Nat) (rest : List Input),
    s.ready = true → 101 ≤ m →
    s.inputs = settled x m (.answer (.ok (b :: y)) :: lastRead (b0 :: b1 :: b2 :: b3 :: more) n rest) →
      (more.length ≤ 1 →
        exec (.version a0 a1 a2) s =
          .next (readBlock s 7 a0 a1 a2 (frame0 8) (.holds b) (b0 :: b1 :: b2 :: b3 :: more) .ok
            (.holds (.version b1 b2 b3))
            (busWrite (frame0 8) x ++ busByte (b :: y) ++ busBlock .main 5 (b0 :: b1 :: b2 :: b3 :: more)) rest)) ∧
      (more.length = 1 →
        exec (.rtcGetTime a0 a1 a2) s =
          .next (readBlock s 9 a0 a1 a2 (frame0 30) (.holds b) (b0 :: b1 :: b2 :: b3 :: more) .ok
            (.holds (.raw (b0 :: b1 :: b2 :: b3 :: more)))
            (busWrite (frame0 30) x ++ busByte (b :: y) ++ busBlock .main 5 (b0 :: b1 :: b2 :: b3 :: more)) rest))

/-- `acc_xyz` returns the folds of `RESP[1]`, `RESP[2]`, `RESP[3]`, without a discarded byte (42_sensors.md R242; 40_core.md R186). -/
def Obligations.AccelerometerReadCompletes : Prop :=
  ∀ (s : State) (a0 a1 a2 : Word) (x more : List Byte) (b0 b1 b2 b3 : Byte) (m n : Nat) (rest : List Input),
    s.ready = true → 101 ≤ m → more.length ≤ 1 → s.inputs = settled x m (lastRead (b0 :: b1 :: b2 :: b3 :: more) n rest) →
      exec (.accXyz a0 a1 a2) s =
        .next (readBlock s 8 a0 a1 a2 (frame0 20) s.rb (b0 :: b1 :: b2 :: b3 :: more) .ok
          (.holds (.acc (fold b1) (fold b2) (fold b3)))
          (busWrite (frame0 20) x ++ busBlock .main 5 (b0 :: b1 :: b2 :: b3 :: more)) rest)

/-- `dht_read` reads nine bytes; a NaN in either span is an invalid reading, and otherwise both spans are rounded to two decimals
(42_sensors.md R244; 40_core.md R190). -/
def Obligations.DhtReadCompletes : Prop :=
  ∀ (s : State) (a0 a1 a2 : Word) (x : List Byte) (b0 t0 t1 t2 t3 h0 h1 h2 h3 : Byte) (m n : Nat) (rest : List Input),
    s.ready = true → 601 ≤ m → 101 ≤ n →
    s.inputs = settled x m (lastRead [b0, t0, t1, t2, t3, h0, h1, h2, h3] n rest) →
      exec (.dhtRead a0 a1 a2) s =
        .next
          (if isNaN32 (f32le t0 t1 t2 t3) = true ∨ isNaN32 (f32le h0 h1 h2 h3) = true then
            readBlock s 10 a0 a1 a2 (frame2 40 a0 a1) s.rb [b0, t0, t1, t2, t3, h0, h1, h2, h3] .invalidReading .unwritten
              (busWrite (frame2 40 a0 a1) x ++ busBlock .main 9 [b0, t0, t1, t2, t3, h0, h1, h2, h3]) rest
          else
            readBlock s 10 a0 a1 a2 (frame2 40 a0 a1) s.rb [b0, t0, t1, t2, t3, h0, h1, h2, h3] .ok
              (.holds (.dht (rnd2 (f32le t0 t1 t2 t3)) (rnd2 (f32le h0 h1 h2 h3))))
              (busWrite (frame2 40 a0 a1) x ++ busBlock .main 9 [b0, t0, t1, t2, t3, h0, h1, h2, h3]) rest)

/-! ### The commands: LED bar, four-digit display, RGB LED -/

/-- The six LED bar writes (43_ledbar.md R260 to R265). -/
def Obligations.LedBarWritesComplete : Prop :=
  ∀ (s : State) (a0 a1 a2 : Word) (x : List Byte) (m : Nat) (rest : List Input),
    s.ready = true → s.inputs = settled x m rest →
      exec (.ledbarInit a0 a1 a2) s = .next (wrote s 11 a0 a1 a2 (frame2 50 a0 a1) x rest) ∧
      exec (.ledbarOrient a0 a1 a2) s = .next (wrote s 12 a0 a1 a2 (frame2 51 a0 a1) x rest) ∧
      exec (.ledbarLevel a0 a1 a2) s = .next (wrote s 13 a0 a1 a2 (frame2 52 a0 a1) x rest) ∧
      exec (.ledbarSetOne a0 a1 a2) s = .next (wrote s 14 a0 a1 a2 (frame3 53 a0 a1 a2) x rest) ∧
      exec (.ledbarToggleOne a0 a1 a2) s = .next (wrote s 15 a0 a1 a2 (frame2 54 a0 a1) x rest) ∧
      exec (.ledbarSet a0 a1 a2) s = .next (wrote s 16 a0 a1 a2 (frameLH 55 a0 a1) x rest)

/-- `ledbar_get` writes its frame at `ADDR_MAIN`, reads its block at `ADDR_ALT` and returns `RESP[1] ^ (RESP[2] << 8)` (43_ledbar.md
R266). -/
def Obligations.LedBarGetCompletes : Prop :=
  ∀ (s : State) (a0 a1 a2 : Word) (x more : List Byte) (b0 lo hi : Byte) (m n : Nat) (rest : List Input),
    s.ready = true → 201 ≤ m → more.length ≤ 2 → s.inputs = settled x m (lastRead (b0 :: lo :: hi :: more) n rest) →
      exec (.ledbarGet a0 a1 a2) s =
        .next (readBlock s 17 a0 a1 a2 (frame1 56 a0) s.rb (b0 :: lo :: hi :: more) .ok
          (.holds (.u16 (BitVec.ofNat 16 (lo.toNat ^^^ hi.toNat * 256))))
          (busWrite (frame1 56 a0) x ++ busBlock .alt 5 (b0 :: lo :: hi :: more)) rest)

/-- The four-digit display commands other than the monitor mode (44_four_digit.md R280 to R286, R288, R289). -/
def Obligations.FourDigitWritesComplete : Prop :=
  ∀ (s : State) (a0 a1 a2 : Word) (x : List Byte) (m : Nat) (rest : List Input),
    s.ready = true → s.inputs = settled x m rest →
      exec (.fdInit a0 a1 a2) s = .next (wrote s 18 a0 a1 a2 (frame1 70 a0) x rest) ∧
      (51 ≤ m →
        exec (.fdBrightness a0 a1 a2) s = .next (wrote s 19 a0 a1 a2 (frame2 71 a0 a1) x rest) ∧
        exec (.fdValue a0 a1 a2) s = .next (wrote s 20 a0 a1 a2 (frameLH 72 a0 a1) x rest) ∧
        exec (.fdValueZeros a0 a1 a2) s = .next (wrote s 21 a0 a1 a2 (frameLH 73 a0 a1) x rest) ∧
        exec (.fdDigit a0 a1 a2) s = .next (wrote s 22 a0 a1 a2 (frame3 74 a0 a1 a2) x rest) ∧
        exec (.fdSegment a0 a1 a2) s = .next (wrote s 23 a0 a1 a2 (frame3 75 a0 a1 a2) x rest) ∧
        exec (.fdScore a0 a1 a2) s = .next (wrote s 24 a0 a1 a2 (frame3 76 a0 a1 a2) x rest) ∧
        exec (.fdAllOn a0 a1 a2) s = .next (wrote s 26 a0 a1 a2 (frame1 78 a0) x rest) ∧
        exec (.fdAllOff a0 a1 a2) s = .next (wrote s 27 a0 a1 a2 (frame1 79 a0) x rest))

/-- `fd_monitor` holds for the duration as sent: `1000 * FRAME[3] + 51` ticks end it, and after one tick less it still waits
(44_four_digit.md R287; 40_core.md R167). -/
def Obligations.MonitorModeHoldsForTheSentDuration : Prop :=
  ∀ (s : State) (a0 a1 a2 : Word) (x : List Byte) (m : Nat) (rest : List Input), s.ready = true →
    (1000 * (lo8 a2).toNat + 51 ≤ m → s.inputs = settled x m rest →
      exec (.fdMonitor a0 a1 a2) s = .next (wrote s 25 a0 a1 a2 (frame3 77 a0 a1 a2) x rest)) ∧
    (m ≤ 1000 * (lo8 a2).toNat + 50 → s.inputs = .answer (.ok x) :: List.replicate m .tick →
      ∃ t, exec (.fdMonitor a0 a1 a2) s = .next t ∧ t.phase = .wait1 ∧ t.ready = false ∧
        t.dly.toNat + m = 1000 * (lo8 a2).toNat + 51)

/-- The six chainable RGB LED commands (45_rgb_led.md R300 to R305). -/
def Obligations.RgbWritesComplete : Prop :=
  ∀ (s : State) (a0 a1 a2 : Word) (x : List Byte) (m : Nat) (rest : List Input),
    s.ready = true → 51 ≤ m → s.inputs = settled x m rest →
      exec (.rgbStoreColor a0 a1 a2) s = .next (wrote s 28 a0 a1 a2 (frame3 90 a0 a1 a2) x rest) ∧
      exec (.rgbInit a0 a1 a2) s = .next (wrote s 29 a0 a1 a2 (frame2 91 a0 a1) x rest) ∧
      exec (.rgbTest a0 a1 a2) s = .next (wrote s 30 a0 a1 a2 (frame3 92 a0 a1 a2) x rest) ∧
      exec (.rgbPattern a0 a1 a2) s = .next (wrote s 31 a0 a1 a2 (frame3 93 a0 a1 a2) x rest) ∧
      exec (.rgbModulo a0 a1 a2) s = .next (wrote s 32 a0 a1 a2 (frame3 94 a0 a1 a2) x rest) ∧
      exec (.rgbLevel a0 a1 a2) s = .next (wrote s 33 a0 a1 a2 (frame3 95 a0 a1 a2) x rest)

/-! ### The commands: IR, dust, encoder, flow -/

/-- The write-only commands of the IR, dust, encoder and flow families (46_ir_dust_encoder_flow.md R321, R323, R324, R326, R327, R329,
R330). -/
def Obligations.SensorSwitchesComplete : Prop :=
  ∀ (s : State) (a0 a1 a2 : Word) (x : List Byte) (m : Nat) (rest : List Input),
    s.ready = true → s.inputs = settled x m rest →
      exec (.irRecvPin a0 a1 a2) s = .next (wrote s 35 a0 a1 a2 (frame1 22 a0) x rest) ∧
      (201 ≤ m →
        exec (.dustEn a0 a1 a2) s = .next (wrote s 37 a0 a1 a2 (frame0 14) x rest) ∧
        exec (.dustDis a0 a1 a2) s = .next (wrote s 38 a0 a1 a2 (frame0 15) x rest) ∧
        exec (.encEn a0 a1 a2) s = .next (wrote s 40 a0 a1 a2 (frame0 16) x rest) ∧
        exec (.encDis a0 a1 a2) s = .next (wrote s 41 a0 a1 a2 (frame0 17) x rest) ∧
        exec (.flowEn a0 a1 a2) s = .next (wrote s 43 a0 a1 a2 (frame0 18) x rest) ∧
        exec (.flowDis a0 a1 a2) s = .next (wrote s 44 a0 a1 a2 (frame0 13) x rest))

/-- `ir_read` reads 21 bytes; 255 at `RESP[1]` is "no data", whatever the other bytes hold, and anything else there gives the raw block
(46_ir_dust_encoder_flow.md R320; 40_core.md R194). -/
def Obligations.IrReadCompletes : Prop :=
  ∀ (s : State) (a0 a1 a2 : Word) (x more : List Byte) (b0 b1 : Byte) (m n : Nat) (rest : List Input),
    s.ready = true → 101 ≤ m → more.length = 19 → s.inputs = settled x m (lastRead (b0 :: b1 :: more) n rest) →
      exec (.irRead a0 a1 a2) s =
        .next
          (if b1 = 255 then
            readBlock s 34 a0 a1 a2 (frame0 21) s.rb (b0 :: b1 :: more) .noData .unwritten
              (busWrite (frame0 21) x ++ busBlock .main 21 (b0 :: b1 :: more)) rest
          else
            readBlock s 34 a0 a1 a2 (frame0 21) s.rb (b0 :: b1 :: more) .ok (.holds (.raw (b0 :: b1 :: more)))
              (busWrite (frame0 21) x ++ busBlock .main 21 (b0 :: b1 :: more)) rest)

/-- `dust_read`, `enc_read` and `flow_read`: a header of 255 is "no data", whatever the other bytes hold, and any other header comes with
the little-endian value of the bytes after it (46_ir_dust_encoder_flow.md R322, R325, R328; 40_core.md R192, R193). -/
def Obligations.SentinelReadsComplete : Prop :=
  ∀ (s : State) (a0 a1 a2 : Word) (x : List Byte) (h b1 b2 b3 : Byte) (m n : Nat) (rest : List Input),
    s.ready = true → 201 ≤ m →
      (∀ more : List Byte, more.length ≤ 1 → s.inputs = settled x m (lastRead (h :: b1 :: b2 :: b3 :: more) n rest) →
        exec (.dustRead a0 a1 a2) s =
          .next (readBlock s 36 a0 a1 a2 (frame0 10) s.rb (h :: b1 :: b2 :: b3 :: more)
            (if h = 255 then .noData else .ok)
            (if h = 255 then .unwritten else .holds (.sent h (b1.toNat + 256 * b2.toNat + 65536 * b3.toNat)))
            (busWrite (frame0 10) x ++ busBlock .main 5 (h :: b1 :: b2 :: b3 :: more)) rest)) ∧
      (∀ more : List Byte, more.length ≤ 3 → s.inputs = settled x m (lastRead (h :: b1 :: more) n rest) →
        exec (.encRead a0 a1 a2) s =
          .next (readBlock s 39 a0 a1 a2 (frame0 11) s.rb (h :: b1 :: more)
            (if h = 255 then .noData else .ok)
            (if h = 255 then .unwritten else .holds (.sent h b1.toNat))
            (busWrite (frame0 11) x ++ busBlock .main 5 (h :: b1 :: more)) rest)) ∧
      (∀ more : List Byte, more.length ≤ 2 → s.inputs = settled x m (lastRead (h :: b1 :: b2 :: more) n rest) →
        exec (.flowRead a0 a1 a2) s =
          .next (readBlock s 42 a0 a1 a2 (frame0 12) s.rb (h :: b1 :: b2 :: more)
            (if h = 255 then .noData else .ok)
            (if h = 255 then .unwritten else .holds (.sent h (b1.toNat + 256 * b2.toNat)))
            (busWrite (frame0 12) x ++ busBlock .main 5 (h :: b1 :: b2 :: more)) rest))

/-! ### The commands: errors -/

/-- Every block-reading command whose block is shorter than its format needs ends with `NO_DATA`, whatever the bytes are (40_core.md R187;
60_exceptions.md R352, R356). -/
def Obligations.ShortBlocksAreNoData : Prop :=
  ∀ (i : Instr) (e : CtEntry) (s : State) (x bs : List Byte) (m n : Nat) (rest : List Input),
    s.ready = true → lookup commandTable i.id = some e → e.rk = .block → bs.length < bytesNeeded e.fmt →
    settle e (encode i) ≤ m → ticks e.d2 ≤ n →
      (e.disc = false → s.inputs = settled x m (lastRead bs n rest) →
        exec i s =
          .next (readBlock s i.id i.arg0 i.arg1 i.arg2 (encode i) s.rb bs .noData .unwritten
            (busWrite (encode i) x ++ busBlock e.raddr e.rlen bs) rest)) ∧
      (∀ (b : Byte) (y : List Byte), e.disc = true → s.inputs = settled x m (.answer (.ok (b :: y)) :: lastRead bs n rest) →
        exec i s =
          .next (readBlock s i.id i.arg0 i.arg1 i.arg2 (encode i) (.holds b) bs .noData .unwritten
            (busWrite (encode i) x ++ busByte (b :: y) ++ busBlock e.raddr e.rlen bs) rest))

/-- Every command whose frame write fails ends at once with `BUS_ERROR` and the transport's diagnostic: no wait, no read (60_exceptions.md
R351, R354; 40_core.md R165). -/
def Obligations.EveryCommandTakesABusErrorOnItsWrite : Prop :=
  ∀ (i : Instr) (s : State) (d : Diag) (rest : List Input), s.ready = true → s.inputs = .answer (.fail d) :: rest →
    exec i s = .next (busErrored s i s.dly s.rb d [.issued (.wr4 .main (encode i)), .answered (.fail d)] rest)

/-- Every command whose one-byte read fails, its own or the discarded one, ends at once with `BUS_ERROR`: no block read and no hold
(60_exceptions.md R351, R354; 40_core.md R172). -/
def Obligations.ByteReadFailureIsABusError : Prop :=
  ∀ (i : Instr) (e : CtEntry) (s : State) (x : List Byte) (d : Diag) (m : Nat) (rest : List Input),
    s.ready = true → lookup commandTable i.id = some e → (e.rk = .byte ∨ (e.rk = .block ∧ e.disc = true)) →
    settle e (encode i) ≤ m → s.inputs = settled x m (.answer (.fail d) :: rest) →
      exec i s =
        .next (busErrored s i 0 s.rb d
          (busWrite (encode i) x ++ [.issued (.rd1 .main), .answered (.fail d)]) rest)

/-- Every command whose block read fails ends at once with `BUS_ERROR`: no hold; a discarded byte read before changes nothing but RB
(60_exceptions.md R351, R354; 40_core.md R175). -/
def Obligations.BlockReadFailureIsABusError : Prop :=
  ∀ (i : Instr) (e : CtEntry) (s : State) (x : List Byte) (d : Diag) (m : Nat) (rest : List Input),
    s.ready = true → lookup commandTable i.id = some e → e.rk = .block → settle e (encode i) ≤ m →
      (e.disc = false → s.inputs = settled x m (.answer (.fail d) :: rest) →
        exec i s =
          .next (busErrored s i 0 s.rb d
            (busWrite (encode i) x ++ [.issued (.rdn e.raddr e.rlen), .answered (.fail d)]) rest)) ∧
      (∀ (b : Byte) (y : List Byte), e.disc = true →
        s.inputs = settled x m (.answer (.ok (b :: y)) :: .answer (.fail d) :: rest) →
        exec i s =
          .next (busErrored s i 0 (.holds b) d
            (busWrite (encode i) x ++ busByte (b :: y) ++ [.issued (.rdn e.raddr e.rlen), .answered (.fail d)]) rest))

/-- A transport that never answers leaves every command in WRITE for ever, whatever else happens but reset (40_core.md R163;
70_reset_and_hazards.md R400). -/
def Obligations.UnansweredWriteBlocksTheEngine : Prop :=
  ∀ (i : Instr) (s : State), s.ready = true → .rst ∉ s.inputs → (∀ a, .answer a ∉ s.inputs) →
    ∃ t, exec i s = .next t ∧ t.phase = .write ∧ t.ready = false ∧ t.frame = .holds (encode i) ∧ t.inputs = [] ∧
      t.trace = s.trace ++ [.issued (.wr4 .main (encode i))]

/-! ### Every command: reference semantics and time -/

/-- The steps of the default table refine the reference semantics: a command that comes to DONE has the outcome of `execute` on the answers taken, with the same
bus operations in the same order, and at least the ticks of the waits that `execute` runs have passed (30_encoding.md R120; 40_core.md
R160, R168; 70_reset_and_hazards.md R404). A build whose block row has `disc = 0` and `F_BYTE`, or whose wait is of 2^32 ticks or more,
is left out (log 30, log 20). -/
def Obligations.CommandsRefineTheReference : Prop :=
  ∀ (i : Instr) (s t : State), exec i s = .next t → s.ready = true → t.phase = .done →
    ∃ (new : List BusEvent) (fin : Finished) (used : List Input),
      t.trace = s.trace ++ new ∧
      execute defaultParams i.id i.arg0 i.arg1 i.arg2 (answersOf new) = some fin ∧
      t.status = .holds fin.status ∧ t.result = fin.result ∧ t.diag = fin.diag ∧ new = fin.bus ∧
      s.inputs = used ++ t.inputs ∧ fin.waited ≤ used.count .tick

/-- A command that does not end with `BUS_ERROR` takes at least the minimum ticks of the table, whatever the order in which the
environment's events come (70_reset_and_hazards.md R404). -/
def Obligations.CommandsTakeTheirMinimumTicks : Prop :=
  ∀ (i : Instr) (s t : State), exec i s = .next t → s.ready = true → t.phase = .done → t.status ≠ .holds .busError →
    ∃ used, s.inputs = used ++ t.inputs ∧ minimumTicks i ≤ used.count .tick

/-! ### Invariants of every step -/

/-- Every step keeps the invariant of the engine's registers (10_state.md R32 to R41; 40_core.md R160 to R195; 60_exceptions.md R350). -/
def Obligations.StepsKeepTheInvariant : Prop :=
  ∀ s t : State, Inv commandTable s → step s = .next t → Inv commandTable t

/-- The invariant and the port's handshake hold after reset. -/
def Obligations.ResetMeetsTheInvariant : Prop :=
  Inv commandTable State.reset ∧ State.reset.portOk commandTable

/-- From a state of the invariant of the default table no step is refused, and none faults unless the transport breaks its contract: no rule reads an unwritten
register (10_state.md R60; 40_core.md R187; 93_implementation_defined.md U1, U9). Of a build with another table it says nothing (log 30). -/
def Obligations.NoStepReadsAnUnwrittenRegister : Prop :=
  ∀ s : State, Inv commandTable s →
    (∀ r, step s ≠ .refused r) ∧ (∀ f, step s = .fault f → f.ofTransport = true)

/-- Every step keeps the transport handshake: at most one operation is outstanding, each is issued only after the one before it was
answered or abandoned, and the operation presented is the outstanding one (10_state.md R47; 20_memory.md R93, R94). -/
def Obligations.StepsKeepTheTransportHandshake : Prop :=
  ∀ s t : State, Inv commandTable s → s.portOk commandTable → step s = .next t → t.portOk commandTable

/-- In a state of the invariant the caller reads a status exactly when `done = 1`, and it is the register's; a result exactly when
`done = 1` and `status = OK`, and a diagnostic exactly when `done = 1` and `status = BUS_ERROR`; every other read is a fault
(70_reset_and_hazards.md R398; 10_state.md R40, R41, R42, R60; 93_implementation_defined.md U1, U2). -/
def Obligations.OutcomeIsReadableExactlyWhenValid : Prop :=
  ∀ s : State, Inv commandTable s →
    ((∃ st, s.readStatus = .ok st) ↔ s.phase = .done) ∧
    (∀ st, s.readStatus = .ok st → s.status = .holds st) ∧
    (s.phase ≠ .done → s.readStatus = .error (.unwrittenRead .status)) ∧
    ((∃ r, s.readResult = .ok r) ↔ s.phase = .done ∧ s.status = .holds .ok) ∧
    (∀ r, s.readResult = .ok r → s.result = .holds r) ∧
    (¬(s.phase = .done ∧ s.status = .holds .ok) → s.readResult = .error (.unwrittenRead .result)) ∧
    ((∃ d, s.readDiag = .ok d) ↔ s.phase = .done ∧ s.status = .holds .busError) ∧
    (∀ d, s.readDiag = .ok d → s.diag = .holds d) ∧
    (¬(s.phase = .done ∧ s.status = .holds .busError) → s.readDiag = .error (.unwrittenRead .diag))

/-! ### The payload arithmetic -/

/-- The two spellings of a composite compute the same number (40_core.md R183). -/
def Obligations.CompositeSpellingsAgree : Prop :=
  ∀ lo hi : Byte, compXor16 lo hi = hi.toNat * 256 + lo.toNat ∧ compXor16 lo hi = lo.toNat ||| (hi.toNat <<< 8)

/-- Composing the split of a 16-bit value gives the value back, in both spellings (40_core.md R197). -/
def Obligations.CompositeInvertsTheSplit : Prop :=
  ∀ v : Word, v.toNat ≤ 65535 → comp16 (hi8 v) (lo8 v) = v.toNat ∧ compXor16 (lo8 v) (hi8 v) = v.toNat

/-- The signed-offset fold: the byte itself up to 32, the byte less 224 above, within -191 to 32 (40_core.md R185). -/
def Obligations.FoldOfASignedOffsetByte : Prop :=
  (∀ b : Byte, (b.toNat ≤ 32 → fold b = b.toNat) ∧ (32 < b.toNat → fold b = (b.toNat : Int) - 224) ∧
    -191 ≤ fold b ∧ fold b ≤ 32) ∧
  fold 33 = -191 ∧ fold 223 = -1 ∧ fold 224 = 0 ∧ fold 255 = 31

/-- The B-coefficient: 4250 for a selector whose low byte is 1 or 2, 3975 for every other selector; the syntax names the selectors 0,
1 and 2 by their hardware revisions (41_gpio.md R227). -/
def Obligations.ModelSelectsTheCoefficient : Prop :=
  (∀ m : Word, bValue (bsel m) = if m.toNat % 256 = 1 ∨ m.toNat % 256 = 2 then 4250 else 3975) ∧
  operandWord .model (.name "1.0") = some 0 ∧ operandWord .model (.name "1.1") = some 1 ∧
  operandWord .model (.name "1.2") = some 2

/-- A version is rendered as its three bytes in decimal, joined by dots: each numeral's digits have the byte's value and no leading zero,
and `"0"` stands for 0 (40_core.md R184). -/
def Obligations.VersionRendersAsDecimals : Prop :=
  (∀ a b c : Byte, renderVersion a b c = decimal a ++ ['.'] ++ decimal b ++ ['.'] ++ decimal c) ∧
  (∀ x : Byte, (decimal x).foldl (fun n ch => 10 * n + (ch.toNat - 48)) 0 = x.toNat ∧
    (∀ ch ∈ decimal x, 48 ≤ ch.toNat ∧ ch.toNat ≤ 57) ∧ (x ≠ 0 → (decimal x).head? ≠ some '0') ∧
    (x = 0 → decimal x = ['0']))

/-- A binary32 is read from four bytes, least significant first: its bytes give its pattern back, and its pattern is the weighted sum
(40_core.md R188, R198). -/
def Obligations.FloatBytesRoundTrip : Prop :=
  (∀ b0 b1 b2 b3 : Byte,
    (f32le b0 b1 b2 b3).toNat = b3.toNat * 2 ^ 24 + b2.toNat * 2 ^ 16 + b1.toNat * 2 ^ 8 + b0.toNat) ∧
  (∀ f : Binary32,
    f32le (f.extractLsb' 0 8) (f.extractLsb' 8 8) (f.extractLsb' 16 8) (f.extractLsb' 24 8) = f)

/-- Rounding to two decimals: a finite datum goes to the integer nearest to its exact value times 100, a tie to the even one, and so within
0.005 of it; an infinity keeps its sign; a NaN is an all-ones exponent with a nonzero fraction (40_core.md R189, R198). -/
def Obligations.RoundingIsExactToNearestEven : Prop :=
  (∀ f : Binary32, ¬ expoOnes f → ∃ n : Int, rnd2 f = .fin n ∧
    |exact32 f * 100 - n| ≤ 1 / 2 ∧ (|exact32 f * 100 - n| = 1 / 2 → Even n) ∧ |exact32 f - n / 100| ≤ 1 / 200) ∧
  (∀ f : Binary32, expoOnes f → fracZero f →
    rnd2 f = if f.toNat / 2 ^ 31 = 1 then .negInf else .posInf) ∧
  (∀ f : Binary32, isNaN32 f = true ↔ expoOnes f ∧ ¬ fracZero f)

/-- The reference conversion of the thermistor, evaluated in binary64, is finite and never a NaN on the whole valid domain, so that a build
bound to it ends no reading of the domain with an invalid reading, and there is such a build; the formula's resistance and denominator
are positive; and the binary64 is within 1e-9 of the formula over the real numbers (41_gpio.md R226; 40_core.md R191;
95_test_vectors.md L2.7). The formula over the reals is the model's yardstick, which no step uses (log 8); that each operation, `ln`
included, rounds to nearest is the model's choice (log 28); the engine of `step` applies the opaque `Config.thermFn` (log 8). -/
def Obligations.ThermistorReferenceIsDefined : Prop :=
  (∀ (a : Nat) (b : BCoeff), 1 ≤ a → a ≤ 1022 →
    (0 < thermResistance a ∧ 0 < thermDenominator a b) ∧
    (thermReference64 a b).toNat / 2 ^ 52 % 2048 ≠ 2047 ∧
    isNaN64 (thermReference64 a b) = false ∧
    thermValue thermReference64 a b = .ok (.temp (thermReference64 a b)) ∧
    |(exact64 (thermReference64 a b) : ℝ) - thermReference a b| ≤ 1 / 10 ^ 9) ∧
  referenceParams.thermFn = thermReference64 ∧ build referenceParams = some (machineOf referenceParams)

/-! ### Builds -/

/-- A build has a machine exactly when its command table has an entry for each of the 45 ids, keeps the constraints listed for an entry
and keeps the two fixed opcodes, whatever its addresses and its `THERM_FN`; the machine built with the default parameters is this model's
core (10_state.md R49, R59; 70_reset_and_hazards.md R394; 00_scope.md R8). That opcodes may collide, that a block may have `rlen = 0` and that
a block row's `rlen` and format need not fit each other is the model's choice (log 26, log 27, log 29). -/
def Obligations.BuildsAreBoundToLegalTablesOnly : Prop :=
  (∀ G : Params,
    build G = some (machineOf G) ↔
      G.table.length = 45 ∧
      (∀ e ∈ G.table, e.rlen.toNat ≤ 21 ∧ (e.rk = .none → e.fmt = .none ∧ e.d2 = 0) ∧ (e.rk = .byte → e.fmt = .byte) ∧
        (e.raddr = .alt → e.rk = .block)) ∧
      (∃ e, G.table[0]? = some e ∧ e.opc = 1) ∧ (∃ e, G.table[17]? = some e ∧ e.opc = 56)) ∧
  (∀ G : Params, build G ≠ some (machineOf G) → build G = none) ∧
  build defaultParams = some core

/-- In every build the commands are run by the build's own table and parameters: a request is taken as the step of its command, accepted
with the frame of its entry in the table, its opcode among it, and where the entry reads nothing and its settle count is below 2^32 the
command completes with `OK` and `none` after the entry's settle ticks; a request of an id from 45 on is refused; a thermistor decode
converts by the build's `THERM_FN` within the domain 1 to 1022, and outside it or on a NaN ends with `INVALID_READING`; and the
operations go to the build's addresses (10_state.md R46, R49, R59; 20_memory.md R82; 30_encoding.md R112; 40_core.md R160 to R162, R164,
R166 to R169, R176, R191; 41_gpio.md R226). The step's grain is the model's choice (log 4). The thermistor clause is about every state in
DECODE: R176 says that with `INVALID_READING` "`RESULT` is left unwritten", and that the step then keeps whatever RESULT held is the
model's reading (log 25, DEDUCED). Left out: the runs of the entries that read, beyond their accept and the thermistor decode (their
settle exit, byte and block reads, hold and other decodes), what a block row that does not fit its format then answers (log 29, log 30),
and settle counts from 2^32 on, whose load wraps (log 20). -/
def Obligations.EveryBuildRunsItsOwnTable : Prop :=
  ∀ G : Params, build G = some (machineOf G) →
    (∀ (s : State) (i : Instr) (rest : List Input), s.ready = true →
      s.inputs = .req i.id i.arg0 i.arg1 i.arg2 :: rest →
        (machineOf G).step s = execWith G i { s with inputs := rest }) ∧
    (∀ (s : State) (c : CmdId) (a0 a1 a2 : Word) (rest : List Input), s.ready = true → 45 ≤ c.toNat →
      s.inputs = .req c a0 a1 a2 :: rest →
        (machineOf G).step s = .next { s with phase := .idle, refused := true, inputs := rest }) ∧
    (∀ i : Instr, ∃ e f, lookup G.table i.id = some e ∧
      f = ⟨e.opc, sel e.s1 i.arg0 i.arg1 i.arg2, sel e.s2 i.arg0 i.arg1 i.arg2, sel e.s3 i.arg0 i.arg1 i.arg2⟩ ∧
      (∀ s : State, s.ready = true → s.inputs = [] →
        execWith G i s = .next { s with
          phase := .write, cmd := .holds i.id, arg0 := .holds i.arg0, arg1 := .holds i.arg1, arg2 := .holds i.arg2
          frame := .holds f, rcnt := 0, resp := [], status := .unwritten, result := .unwritten, diag := .unwritten
          trace := s.trace ++ [.issued (.wr4 .main f)] }) ∧
      (∀ (s : State) (x : List Byte) (m : Nat) (rest : List Input), s.ready = true → e.rk = .none →
        settle e f ≤ m → settle e f < 2 ^ 32 → s.inputs = settled x m rest →
          execWith G i s = .next (wrote s i.id i.arg0 i.arg1 i.arg2 f x rest))) ∧
    (∀ (s : State) (c : CmdId) (e : CtEntry) (m : Word) (b0 hi lo : Byte) (more : List Byte) (a : Nat) (b : BCoeff),
      s.phase = .decode → s.cmd = .holds c → lookup G.table c = some e → e.fmt = .therm → s.arg1 = .holds m →
      s.resp = b0 :: hi :: lo :: more → s.rcnt.toNat = s.resp.length → a = hi.toNat * 256 + lo.toNat →
      b = (if m.toNat % 256 = 1 ∨ m.toNat % 256 = 2 then .b4250 else .b3975) →
        engineStep G .go s =
          .next (if a = 0 ∨ 1023 ≤ a ∨ isNaN64 (G.thermFn a b) = true then
              { s with phase := .done, status := .holds .invalidReading }
            else { s with phase := .done, status := .holds .ok, result := .holds (.temp (G.thermFn a b)) })) ∧
    (∀ (f : Frame) (n : BitVec 5), (BusOp.wr4 .main f).tAddr G = G.addrMain ∧ (BusOp.rd1 .main).tAddr G = G.addrMain ∧
      (BusOp.rdn .main n).tAddr G = G.addrMain ∧ (BusOp.rdn .alt n).tAddr G = G.addrAlt)
end

