-- ==== Sys2Proof/Laws/Assembler.lean ====
section
/-! SUPPORT. What the assembler reads from a number operand (30_encoding.md R126). -/

namespace Sys2Proof.Machine

/-- A word written as a number operand is read back in every position. -/
theorem operandWord_numOperand (k : OperandKind) (a : Word) : operandWord k (numOperand a) = some a := by
  have := a.isLt
  simp only [operandWord, numOperand, wordOf]
  rw [if_pos (by omega)]
  simp

end Sys2Proof.Machine
end

