-- ==== Sys2Proof/Laws/Binary64.lean ====
section
/-! SUPPORT. What the binary64 operations can do. `HasValue` says that a datum is a finite binary64 of a real value; one lemma per
operation says that its result has the exact value up to the rounding, and one that it is exact on integers below 2^53. The
logarithm's series is within 2^-170 of the logarithm. -/

namespace Sys2Proof.Machine
/-- Rounding a quotient to the nearest natural number is off by at most a half. -/
theorem rneDiv_close {num den : Nat} (hd : 0 < den) : |(rneDiv num den : ℝ) - num / den| ≤ 1 / 2 := by
  have h1 := Nat.div_add_mod num den
  have h2 := Nat.mod_lt num hd
  have hd' : (0 : ℝ) < den := by exact_mod_cast hd
  have key : 2 * |(rneDiv num den : ℝ) * den - num| ≤ den := by
    have hn : (num : ℝ) = den * (num / den : ℕ) + (num % den : ℕ) := by exact_mod_cast h1.symm
    rw [hn]
    have h2' : ((num % den : ℕ) : ℝ) < den := by exact_mod_cast h2
    have h0 : (0 : ℝ) ≤ (num % den : ℕ) := Nat.cast_nonneg _
    unfold rneDiv
    split
    · rename_i h
      have h3 : (den : ℝ) ≤ 2 * (num % den : ℕ) := by exact_mod_cast (by omega : den ≤ 2 * (num % den))
      rw [abs_of_nonneg (by push_cast; nlinarith)]
      push_cast; nlinarith
    · rename_i h
      have h3 : 2 * ((num % den : ℕ) : ℝ) ≤ den := by exact_mod_cast (by omega : 2 * (num % den) ≤ den)
      rw [abs_of_nonpos (by nlinarith)]
      nlinarith
  have : (rneDiv num den : ℝ) - num / den = ((rneDiv num den : ℝ) * den - num) / den := by field_simp
  rw [this, abs_div, abs_of_pos hd', div_le_iff₀ hd']
  linarith

/-- Rounding to 53 significant bits is off by at most a half unit and a part in 2^53. -/
theorem roundUnits_close {num den : Nat} (hd : 0 < den) :
    |(roundUnits num den : ℝ) - num / den| ≤ 1 / 2 + num / den / 2 ^ 53 := by
  have hd' : (0 : ℝ) < den := by exact_mod_cast hd
  unfold roundUnits
  simp only
  generalize hk : Nat.log2 (num / den) - 52 = k
  have hp : (0 : ℝ) < 2 ^ k := by positivity
  have h := rneDiv_close (num := num) (den := den * 2 ^ k) (by positivity)
  push_cast at h ⊢
  have e : (rneDiv num (den * 2 ^ k) : ℝ) * 2 ^ k - num / den =
      ((rneDiv num (den * 2 ^ k) : ℝ) - num / (den * 2 ^ k)) * 2 ^ k := by field_simp
  rw [e, abs_mul, abs_of_pos hp]
  have h3 : |(rneDiv num (den * 2 ^ k) : ℝ) - num / (den * 2 ^ k)| * 2 ^ k ≤ 1 / 2 * 2 ^ k :=
    mul_le_mul_of_nonneg_right h hp.le
  refine h3.trans ?_
  have hx : (0 : ℝ) ≤ num / den := by positivity
  rcases Nat.eq_zero_or_pos k with rfl | hk0
  · have : (0:ℝ) ≤ num / den / 2 ^ 53 := by positivity
    simp; linarith
  · have hq : 2 ^ (k + 52) ≤ num / den := by
      have h0 : num / den ≠ 0 := by rintro h0; rw [h0] at hk; simp at hk; omega
      rw [show k + 52 = Nat.log2 (num / den) by omega]
      exact Nat.log2_self_le h0
    have hq' : (2 : ℝ) ^ (k + 52) ≤ num / den := by
      refine le_trans (by exact_mod_cast hq) (Nat.cast_div_le)
    rw [pow_add] at hq'
    norm_num at hq' ⊢
    linarith

open Finset in
/-- The numerator is the series, times its denominator. -/
theorem artanhNum_eq {p q : Nat} (hq : 0 < q) (n j : Nat) (h : n + j ≤ lnTerms) :
    (artanhNum p q n j : ℝ) * q ^ 2 =
      oddMultiple * q ^ (2 * n) * ∑ i ∈ range n, ((p : ℝ) / q) ^ (2 * i) / (2 * ((i + j : ℕ) : ℝ) + 1) := by
  have hq' : (q : ℝ) ≠ 0 := by positivity
  induction n generalizing j with
  | zero => simp [artanhNum]
  | succ n ih =>
    have hd : 2 * j + 1 ∣ oddMultiple := by
      unfold oddMultiple; exact Nat.dvd_factorial (by omega) (by omega)
    have ih' := ih (j + 1) (by omega)
    rw [sum_range_succ', artanhNum]
    push_cast [Nat.cast_div hd (by positivity : ((2 * j + 1 : ℕ) : ℝ) ≠ 0)]
    have e : ((oddMultiple : ℝ) / (2 * j + 1) * q ^ (2 * n) + p * p * artanhNum p q n (j + 1)) * q ^ 2 =
        oddMultiple / (2 * j + 1) * q ^ (2 * n) * q ^ 2 + p * p * (artanhNum p q n (j + 1) * q ^ 2) := by ring
    rw [e, ih']
    have e2 : ∑ i ∈ range n, ((p : ℝ) / q) ^ (2 * (i + 1)) / (2 * ((i : ℝ) + 1 + j) + 1) =
        ((p : ℝ) / q) ^ 2 * ∑ i ∈ range n, ((p : ℝ) / q) ^ (2 * i) / (2 * ((i + (j + 1) : ℕ) : ℝ) + 1) := by
      rw [mul_sum]; refine sum_congr rfl fun i _ => ?_
      push_cast
      rw [show (i : ℝ) + 1 + j = i + (j + 1) by ring]; ring
    rw [e2]
    push_cast
    field_simp
    ring_nf

open Finset in
/-- The series is within 2^-190 of half the logarithm of (1 + z) / (1 - z), with z = p / q at most 1/3. -/
theorem artanhNum_close {p q : Nat} (hq : 3 * p ≤ q) (hq0 : 0 < q) :
    |(p : ℝ) * artanhNum p q lnTerms 0 / (oddMultiple * q ^ (2 * lnTerms - 1)) -
      1 / 2 * Real.log (((q : ℝ) + p) / (q - p))| ≤ 1 / 2 ^ 190 := by
  have hq' : (0 : ℝ) < q := by positivity
  have h0 : (0 : ℝ) ≤ (p : ℝ) / q := by positivity
  have h3 : (p : ℝ) / q ≤ 1 / 3 := by
    rw [div_le_div_iff₀ hq' (by norm_num)]; have : (3 * p : ℝ) ≤ q := by exact_mod_cast hq
    linarith
  have ho : (0 : ℝ) < oddMultiple := by unfold oddMultiple; exact_mod_cast Nat.factorial_pos _
  have he : (p : ℝ) * artanhNum p q lnTerms 0 / (oddMultiple * q ^ (2 * lnTerms - 1)) =
      ∑ i ∈ range lnTerms, ((p : ℝ) / q) ^ (2 * i + 1) / (2 * i + 1) := by
    have h := artanhNum_eq (p := p) hq0 lnTerms 0 (by omega)
    have e1 : ∑ i ∈ range lnTerms, ((p : ℝ) / q) ^ (2 * i + 1) / (2 * i + 1) =
        p / q * ∑ i ∈ range lnTerms, ((p : ℝ) / q) ^ (2 * i) / (2 * ((i + 0 : ℕ) : ℝ) + 1) := by
      rw [mul_sum]; refine sum_congr rfl fun i _ => ?_
      rw [pow_succ]; push_cast; ring
    rw [e1]
    generalize hS : ∑ i ∈ range lnTerms, ((p : ℝ) / q) ^ (2 * i) / (2 * ((i + 0 : ℕ) : ℝ) + 1) = S at h ⊢
    rw [show (q : ℝ) ^ (2 * lnTerms) = q ^ (2 * lnTerms - 1) * q by
      rw [← pow_succ]; rfl] at h
    have hQ : (0 : ℝ) < (q : ℝ) ^ (2 * lnTerms - 1) := by positivity
    generalize (q : ℝ) ^ (2 * lnTerms - 1) = Q at *
    generalize (artanhNum p q lnTerms 0 : ℝ) = A at *
    generalize (oddMultiple : ℝ) = O at *
    have hA : A * q = O * Q * S := mul_right_cancel₀ hq'.ne' (by linear_combination h)
    rw [div_mul_eq_mul_div, div_eq_div_iff (by positivity) (by positivity)]
    linear_combination (p : ℝ) * hA
  rw [he]
  have hz : ((1 : ℝ) + p / q) / (1 - p / q) = (q + p) / (q - p) := by
    rw [show (1 : ℝ) + p / q = (q + p) / q by field_simp, show (1 : ℝ) - p / q = (q - p) / q by field_simp]
    field_simp
  have hlo := Real.sum_range_le_log_div h0 (by linarith) lnTerms
  have hhi := Real.log_div_le_sum_range_add h0 (by linarith) lnTerms
  rw [hz] at hlo hhi
  have hb : ((p : ℝ) / q) ^ (2 * lnTerms + 1) / (1 - ((p : ℝ) / q) ^ 2) ≤ 1 / 2 ^ 190 := by
    have h1 : ((p : ℝ) / q) ^ (2 * lnTerms + 1) ≤ (1 / 3) ^ (2 * lnTerms + 1) := pow_le_pow_left₀ h0 h3 _
    have h2 : (8 : ℝ) / 9 ≤ 1 - ((p : ℝ) / q) ^ 2 := by nlinarith
    calc _ ≤ (1 / 3 : ℝ) ^ (2 * lnTerms + 1) / (8 / 9) := by gcongr
      _ ≤ _ := by rw [lnTerms]; norm_num
  rw [abs_le]; constructor <;> linarith

/-- The denominator of the logarithm is positive. -/
theorem lnDen_pos (n : Nat) : 0 < lnDen n := by
  unfold lnDen oddMultiple
  have := Nat.factorial_pos (2 * lnTerms)
  have : 0 < n + 2 ^ Nat.log2 n := by positivity
  positivity

/-- The series of the logarithm is within 2^-170 of it. -/
theorem lnNum_close {n : Nat} (hn : 0 < n) (hk : Nat.log2 n < 2098) :
    |(lnNum n : ℝ) / lnDen n - Real.log (n / 2 ^ 1074)| ≤ 1 / 2 ^ 170 := by
  have hlo := Nat.log2_self_le hn.ne'
  have hhi : n < 2 ^ (Nat.log2 n + 1) := Nat.lt_log2_self
  have hnum : lnNum n = ((Nat.log2 n : Int) - 1074) * (2 * artanhNum 1 3 lnTerms 0 * (n + 2 ^ Nat.log2 n) ^ (2 * lnTerms - 1) : Nat) +
    (2 * (n - 2 ^ Nat.log2 n) * artanhNum (n - 2 ^ Nat.log2 n) (n + 2 ^ Nat.log2 n) lnTerms 0 * 3 ^ (2 * lnTerms - 1) : Nat) := rfl
  have hden : lnDen n = oddMultiple * 3 ^ (2 * lnTerms - 1) * (n + 2 ^ Nat.log2 n) ^ (2 * lnTerms - 1) := rfl
  rw [hnum, hden]
  clear hnum hden
  generalize Nat.log2 n = k at *
  have hsplit : Real.log (n / 2 ^ 1074) = ((k : ℝ) - 1074) * Real.log 2 + Real.log (n / 2 ^ k) := by
    rw [Real.log_div (by positivity) (by positivity), Real.log_div (by positivity) (by positivity), Real.log_pow, Real.log_pow]
    push_cast; ring
  have hp2 : 0 < 2 ^ k := by positivity
  have c1 := artanhNum_close (p := 1) (q := 3) (by norm_num) (by norm_num)
  have c2 := artanhNum_close (p := n - 2 ^ k) (q := n + 2 ^ k) (by rw [pow_succ] at hhi; omega) (by omega)
  have e2 : (((n + 2 ^ k : ℕ) : ℝ) + (n - 2 ^ k : ℕ)) / ((n + 2 ^ k : ℕ) - (n - 2 ^ k : ℕ)) = n / 2 ^ k := by
    push_cast [Nat.cast_sub hlo]
    rw [show (n : ℝ) + 2 ^ k + (n - 2 ^ k) = 2 * n by ring, show (n : ℝ) + 2 ^ k - (n - 2 ^ k) = 2 * 2 ^ k by ring]
    field_simp
  rw [e2] at c2
  rw [show (((3 : ℕ) : ℝ) + (1 : ℕ)) / ((3 : ℕ) - (1 : ℕ)) = 2 by norm_num] at c1
  rw [hsplit]
  generalize n - 2 ^ k = p at *
  generalize hq : n + 2 ^ k = q at *
  have hq0 : (0 : ℝ) < q := by have : 0 < q := by omega
                               exact_mod_cast this
  have ho : (0 : ℝ) < oddMultiple := by unfold oddMultiple; exact_mod_cast Nat.factorial_pos _
  have ht : (0 : ℝ) < 3 ^ (2 * lnTerms - 1) := by positivity
  have hqp : (0 : ℝ) < (q : ℝ) ^ (2 * lnTerms - 1) := by positivity
  push_cast at c1 c2 ⊢
  generalize (q : ℝ) ^ (2 * lnTerms - 1) = Q at *
  generalize (3 : ℝ) ^ (2 * lnTerms - 1) = H at *
  generalize (oddMultiple : ℝ) = O at *
  generalize (artanhNum 1 3 lnTerms 0 : ℝ) = A at *
  generalize (artanhNum p q lnTerms 0 : ℝ) = C at *
  generalize Real.log 2 = L at *
  generalize Real.log (n / 2 ^ k) = N at *
  have e : (((k : ℝ) - 1074) * (2 * A * Q) + 2 * p * C * H) / (O * H * Q) - (((k : ℝ) - 1074) * L + N) =
      ((k : ℝ) - 1074) * 2 * (1 * A / (O * H) - 1 / 2 * L) + 2 * (p * C / (O * Q) - 1 / 2 * N) := by
    field_simp; ring
  rw [e]
  have hk' : |(k : ℝ) - 1074| ≤ 1074 := by
    rw [abs_le]
    have : (k : ℝ) ≤ 2097 := by exact_mod_cast (by omega : k ≤ 2097)
    have : (0 : ℝ) ≤ k := Nat.cast_nonneg _
    constructor <;> linarith
  calc _ ≤ |((k : ℝ) - 1074) * 2 * (1 * A / (O * H) - 1 / 2 * L)| + |2 * (p * C / (O * Q) - 1 / 2 * N)| := abs_add_le _ _
    _ = |(k : ℝ) - 1074| * 2 * |1 * A / (O * H) - 1 / 2 * L| + 2 * |p * C / (O * Q) - 1 / 2 * N| := by
      rw [abs_mul, abs_mul, abs_mul]; norm_num
    _ ≤ 1074 * 2 * (1 / 2 ^ 190) + 2 * (1 / 2 ^ 190) := by gcongr
    _ ≤ _ := by norm_num

/-- The sign of a datum as a factor. -/
def sgn (s : Bool) : ℝ := if s then -1 else 1

/-- The datum is a finite binary64, of 53 significant bits within the range, and has the value `v`. -/
def Datum64.HasValue (d : Datum64) (v : ℝ) : Prop :=
  ∃ s n, d = .fin s n ∧ n < limit64 ∧ (∃ m j, n = m * 2 ^ j ∧ m ≤ 2 ^ 53) ∧ v * one64 = sgn s * n

/-- There is a unit. -/
theorem one64_pos_nat : 0 < one64 := by unfold one64; exact Nat.two_pow_pos _

theorem one64_pos : (0 : ℝ) < one64 := by exact_mod_cast one64_pos_nat

/-- A unit is at most 2^-200. -/
theorem one64_ge : (2 : ℝ) ^ 200 ≤ one64 := by
  have : 2 ^ 200 ≤ one64 := by unfold one64; exact Nat.pow_le_pow_right (by norm_num) (by norm_num)
  exact_mod_cast this

/-- The range reaches beyond 2^202. -/
theorem limit64_ge : 2 ^ 202 * one64 ≤ limit64 := by
  unfold limit64; exact Nat.mul_le_mul_right _ (Nat.pow_le_pow_right (by norm_num) (by norm_num))

theorem sgn_abs (s : Bool) : |sgn s| = 1 := by cases s <;> simp [sgn]

theorem sgn_xor (s t : Bool) : sgn (s ^^ t) = sgn s * sgn t := by cases s <;> cases t <;> simp [sgn]

theorem sgn_mul_self (s : Bool) : sgn s * sgn s = 1 := by cases s <;> simp [sgn]

/-- The signed units of a datum. -/
theorem signedUnits_eq (s : Bool) (n : Nat) : (signedUnits s n : ℝ) = sgn s * n := by
  cases s <;> simp [signedUnits, sgn]

/-- A rounded magnitude has 53 significant bits. -/
theorem roundUnits_repr (num den : Nat) : ∃ m j, roundUnits num den = m * 2 ^ j ∧ m ≤ 2 ^ 53 := by
  refine ⟨rneDiv num (den * 2 ^ (Nat.log2 (num / den) - 52)), Nat.log2 (num / den) - 52, rfl, ?_⟩
  generalize hk : Nat.log2 (num / den) - 52 = k
  have hlt : num / (den * 2 ^ k) < 2 ^ 53 := by
    rw [← Nat.div_div_eq_div_mul, Nat.div_lt_iff_lt_mul (by positivity), ← pow_add]
    exact Nat.lt_log2_self.trans_le (Nat.pow_le_pow_right (by norm_num) (by omega))
  unfold rneDiv; split <;> omega

/-- Rounding gives a finite datum, off by a part in 2^53 and 2^-200 at most. -/
theorem round64_close {s : Bool} {num den : Nat} (hd : 0 < den) {x : ℝ} (hx : (num : ℝ) / den = x * one64) (hb : x ≤ 2 ^ 200) :
    ∃ v, (round64 s num den).HasValue (sgn s * v) ∧ |v - x| ≤ x / 2 ^ 53 + 1 / 2 ^ 200 := by
  have hU := one64_pos
  have hU3 := one64_ge
  have h := roundUnits_close (num := num) hd
  rw [hx] at h
  have hx0 : 0 ≤ x := by
    have : 0 ≤ x * one64 := by rw [← hx]; positivity
    exact nonneg_of_mul_nonneg_left this hU
  have hxU : x * one64 ≤ 2 ^ 200 * one64 := mul_le_mul_of_nonneg_right hb hU.le
  have hup : (roundUnits num den : ℝ) < 2 ^ 202 * one64 := by
    have h1 := (abs_le.1 h).2
    have h2 : (1 : ℝ) ≤ one64 := le_trans (by norm_num) hU3
    have h3 : (0 : ℝ) ≤ x * one64 := by positivity
    have h4 : x * one64 / 2 ^ 53 ≤ x * one64 := div_le_self h3 (by norm_num)
    have h5 : (2 : ℝ) ^ 202 * one64 = 4 * (2 ^ 200 * one64) := by ring
    have h6 : (one64 : ℝ) ≤ 2 ^ 200 * one64 := le_mul_of_one_le_left hU.le (by norm_num)
    rw [h5]; linarith
  have hlt : roundUnits num den < limit64 := by
    have : roundUnits num den < 2 ^ 202 * one64 := by exact_mod_cast hup
    exact this.trans_le limit64_ge
  refine ⟨roundUnits num den / one64, ⟨s, _, if_pos hlt, hlt, roundUnits_repr num den, by field_simp⟩, ?_⟩
  have e : (roundUnits num den : ℝ) / one64 - x = ((roundUnits num den : ℝ) - x * one64) / one64 := by field_simp
  rw [e, abs_div, abs_of_pos hU, div_le_iff₀ hU]
  refine h.trans ?_
  have : (1 : ℝ) / 2 ≤ 1 / 2 ^ 200 * one64 := by
    calc (1 : ℝ) / 2 ≤ 1 / 2 ^ 200 * 2 ^ 200 := by norm_num
      _ ≤ _ := by gcongr
  rw [add_mul]
  have : x / 2 ^ 53 * (one64 : ℝ) = x * one64 / 2 ^ 53 := by ring
  linarith

/-- A literal is off by its rounding. -/
theorem literal64_close {num den : Nat} (hd : 0 < den) (hb : (num : ℝ) / den ≤ 2 ^ 200) :
    ∃ v, (literal64 num den).HasValue v ∧ |v - num / den| ≤ num / den / 2 ^ 53 + 1 / 2 ^ 200 := by
  obtain ⟨v, h1, h2⟩ := round64_close (s := false) (num := num * one64) hd (x := num / den) (by push_cast; ring) hb
  exact ⟨v, by simpa [sgn, literal64] using h1, h2⟩

/-- Negation is exact. -/
theorem neg64_value {x : Datum64} {u : ℝ} (h : x.HasValue u) : (neg64 x).HasValue (-u) := by
  obtain ⟨s, n, rfl, h1, h2, h3⟩ := h
  refine ⟨!s, n, rfl, h1, h2, ?_⟩
  rw [neg_mul, h3]; cases s <;> simp [sgn]

/-- Both zeros have the value 0. -/
theorem zero_value (s : Bool) : (Datum64.fin s 0).HasValue 0 :=
  ⟨s, 0, rfl, lt_of_lt_of_le (Nat.mul_pos (Nat.two_pow_pos _) one64_pos_nat) limit64_ge, ⟨0, 0, rfl, by norm_num⟩, by simp⟩

/-- An integer from its sign and its magnitude. -/
theorem sgn_mul_natAbs (v : Int) : sgn (decide (v < 0)) * (v.natAbs : ℝ) = v := by
  rw [Nat.cast_natAbs]
  by_cases h : v < 0
  · have h' : (v : ℝ) < 0 := by exact_mod_cast h
    simp [sgn, h, abs_of_neg h']
  · have h' : (0 : ℝ) ≤ v := by exact_mod_cast not_lt.1 h
    simp [sgn, h, abs_of_nonneg h']

/-- A sign does not change how far a rounding is off. -/
theorem close_sgn {s : Bool} {v x z : ℝ} (h : |v - x| ≤ x / 2 ^ 53 + 1 / 2 ^ 200) (hz : z = sgn s * x) (hx : 0 ≤ x) :
    |sgn s * v - z| ≤ |z| / 2 ^ 53 + 1 / 2 ^ 200 := by
  rw [hz, ← mul_sub, abs_mul, abs_mul, sgn_abs, one_mul, one_mul, abs_of_nonneg hx]; exact h

/-- A sum is off by its rounding. -/
theorem add64_close {x y : Datum64} {u w : ℝ} (hx : x.HasValue u) (hy : y.HasValue w) (hb : |u + w| ≤ 2 ^ 200) :
    ∃ v, (add64 x y).HasValue v ∧ |v - (u + w)| ≤ |u + w| / 2 ^ 53 + 1 / 2 ^ 200 := by
  obtain ⟨s, a, rfl, -, -, h3⟩ := hx
  obtain ⟨t, b, rfl, -, -, h4⟩ := hy
  have hU := one64_pos
  have hv : ((signedUnits s a + signedUnits t b : Int) : ℝ) = (u + w) * one64 := by
    push_cast; rw [signedUnits_eq, signedUnits_eq, add_mul, h3, h4]
  simp only [add64]
  generalize signedUnits s a + signedUnits t b = z at *
  split
  · rename_i h0
    have : u + w = 0 := by
      have : (u + w) * one64 = 0 := by rw [← hv, h0]; simp
      exact (mul_eq_zero.1 this).resolve_right hU.ne'
    rw [this]; exact ⟨0, zero_value _, by norm_num⟩
  · have hz := sgn_mul_natAbs z
    have hx : ((z.natAbs : ℕ) : ℝ) / (1 : ℕ) = |u + w| * one64 := by
      rw [Nat.cast_natAbs, Int.cast_abs, hv, abs_mul, abs_of_pos hU]; simp
    obtain ⟨v, h1, h2⟩ := round64_close (s := decide (z < 0)) Nat.one_pos hx hb
    refine ⟨_, h1, close_sgn h2 ?_ (abs_nonneg _)⟩
    have e : sgn (decide (z < 0)) * |u + w| * one64 = (u + w) * one64 := by
      rw [mul_assoc, ← hx, ← hv, Nat.cast_one, div_one, hz]
    exact (mul_right_cancel₀ hU.ne' e).symm

/-- A difference is off by its rounding. -/
theorem sub64_close {x y : Datum64} {u w : ℝ} (hx : x.HasValue u) (hy : y.HasValue w) (hb : |u - w| ≤ 2 ^ 200) :
    ∃ v, (sub64 x y).HasValue v ∧ |v - (u - w)| ≤ |u - w| / 2 ^ 53 + 1 / 2 ^ 200 := by
  rw [sub_eq_add_neg] at *; exact add64_close hx (neg64_value hy) hb

/-- A product is off by its rounding. -/
theorem mul64_close {x y : Datum64} {u w : ℝ} (hx : x.HasValue u) (hy : y.HasValue w) (hb : |u * w| ≤ 2 ^ 200) :
    ∃ v, (mul64 x y).HasValue v ∧ |v - u * w| ≤ |u * w| / 2 ^ 53 + 1 / 2 ^ 200 := by
  obtain ⟨s, a, rfl, -, -, h3⟩ := hx
  obtain ⟨t, b, rfl, -, -, h4⟩ := hy
  have hU := one64_pos
  have e : sgn (s ^^ t) * ((a * b : ℕ) / (one64 : ℝ)) = u * w * one64 := by
    rw [sgn_xor]; push_cast; field_simp
    linear_combination (-(w * one64)) * h3 - sgn s * a * h4
  have ha : ((a * b : ℕ) : ℝ) / one64 = |u * w| * one64 := by
    have := congrArg abs e
    rwa [abs_mul, sgn_abs, one_mul, abs_of_nonneg (by positivity), abs_mul, abs_of_pos hU] at this
  obtain ⟨v, h1, h2⟩ := round64_close (s := s ^^ t) one64_pos_nat ha hb
  refine ⟨_, h1, close_sgn h2 ?_ (abs_nonneg _)⟩
  rw [ha, ← mul_assoc] at e
  exact (mul_right_cancel₀ hU.ne' e).symm

/-- A quotient by a nonzero number is off by its rounding. -/
theorem div64_close {x y : Datum64} {u w : ℝ} (hx : x.HasValue u) (hy : y.HasValue w) (hw : w ≠ 0) (hb : |u / w| ≤ 2 ^ 200) :
    ∃ v, (div64 x y).HasValue v ∧ |v - u / w| ≤ |u / w| / 2 ^ 53 + 1 / 2 ^ 200 := by
  obtain ⟨s, a, rfl, -, -, h3⟩ := hx
  obtain ⟨t, b, rfl, -, -, h4⟩ := hy
  have hU := one64_pos
  have hb0 : b ≠ 0 := by
    rintro rfl; apply hw
    exact (mul_eq_zero.1 (by simpa using h4)).resolve_right hU.ne'
  have hb1 : (0 : ℝ) < b := by positivity
  have e : sgn (s ^^ t) * ((a * one64 : ℕ) / (b : ℝ)) = u / w * one64 := by
    have ht := sgn_mul_self t
    have ht0 : sgn t ≠ 0 := left_ne_zero_of_mul_eq_one ht
    rw [sgn_xor, eq_div_of_mul_eq hU.ne' h3, eq_div_of_mul_eq hU.ne' h4]; push_cast; field_simp
    linear_combination (sgn s * a) * ht
  have ha : ((a * one64 : ℕ) : ℝ) / b = |u / w| * one64 := by
    have := congrArg abs e
    rwa [abs_mul, sgn_abs, one_mul, abs_of_nonneg (by positivity), abs_mul, abs_of_pos hU] at this
  obtain ⟨v, h1, h2⟩ := round64_close (s := s ^^ t) (Nat.pos_of_ne_zero hb0) ha hb
  refine ⟨sgn (s ^^ t) * v, by simpa [div64, hb0] using h1, close_sgn h2 ?_ (abs_nonneg _)⟩
  rw [ha, ← mul_assoc] at e
  exact (mul_right_cancel₀ hU.ne' e).symm

/-- The logarithm of a positive number is off by its rounding and the rest of the series. -/
theorem ln64_close {x : Datum64} {u : ℝ} (hx : x.HasValue u) (hu : 0 < u) (hb : |Real.log u| ≤ 2 ^ 100) :
    ∃ v, (ln64 x).HasValue v ∧ |v - Real.log u| ≤ |Real.log u| / 2 ^ 53 + 1 / 2 ^ 160 := by
  obtain ⟨s, n, rfl, h1, -, h3⟩ := hx
  have hU := one64_pos
  have hn : n ≠ 0 := by
    rintro rfl
    have : u * one64 = 0 := by simpa using h3
    exact absurd this (mul_pos hu hU).ne'
  have hs : s = false := by
    cases s
    · rfl
    · have h0 : (0 : ℝ) ≤ n := Nat.cast_nonneg _
      have := mul_pos hu hU
      simp [sgn] at h3; linarith
  subst hs
  have hk : Nat.log2 n < 2098 := by
    refine (Nat.log2_lt hn).2 (h1.trans_le ?_)
    unfold limit64 one64
    exact (pow_add 2 1024 1074).ge
  have hu' : u = (n : ℝ) / 2 ^ 1074 := by
    have e : (one64 : ℝ) = 2 ^ 1074 := by unfold one64; exact Nat.cast_pow 2 1074
    rw [← e, eq_div_iff hU.ne', h3]; simp [sgn]
  have hc := lnNum_close (Nat.pos_of_ne_zero hn) hk
  rw [← hu'] at hc
  have hd := lnDen_pos n
  have hd' : (0 : ℝ) < lnDen n := by exact_mod_cast hd
  simp only [ln64, hn, if_false, Bool.false_eq_true]
  generalize lnNum n = z at *
  generalize lnDen n = d at *
  have ha : ((z.natAbs * one64 : ℕ) : ℝ) / d = |(z : ℝ) / d| * one64 := by
    rw [abs_div, abs_of_pos hd', Nat.cast_mul, Nat.cast_natAbs, Int.cast_abs]; ring
  have hy : |(z : ℝ) / d| ≤ |Real.log u| + 1 / 2 ^ 170 := by
    have := abs_sub_abs_le_abs_sub ((z : ℝ) / d) (Real.log u); linarith
  obtain ⟨v, h4, h5⟩ := round64_close (s := decide (z < 0)) hd ha
    (hy.trans (by norm_num at hb ⊢; linarith))
  refine ⟨_, h4, ?_⟩
  have e : (z : ℝ) / d = sgn (decide (z < 0)) * |(z : ℝ) / d| := by
    rw [abs_div, abs_of_pos hd']
    have := sgn_mul_natAbs z
    rw [Nat.cast_natAbs, Int.cast_abs] at this
    rw [← mul_div_assoc, this]
  have h6 := close_sgn h5 e (abs_nonneg _)
  have h7 := abs_sub_le (sgn (decide (z < 0)) * v) ((z : ℝ) / d) (Real.log u)
  norm_num at h6 hy hc ⊢
  linarith

/-- A quotient that has 53 significant bits is not changed by rounding. -/
theorem roundUnits_exact {den m j : Nat} (hd : 0 < den) (hm : m < 2 ^ 53) :
    roundUnits (den * (m * 2 ^ j)) den = m * 2 ^ j := by
  unfold roundUnits
  simp only [Nat.mul_div_cancel_left _ hd]
  rcases Nat.eq_zero_or_pos m with rfl | h0
  · simp [rneDiv]
  have hN : m * 2 ^ j ≠ 0 := by positivity
  have hk : Nat.log2 (m * 2 ^ j) - 52 ≤ j := by
    have : Nat.log2 (m * 2 ^ j) < 53 + j := by
      rw [Nat.log2_lt hN, pow_add]; exact Nat.mul_lt_mul_of_pos_right hm (by positivity)
    omega
  generalize Nat.log2 (m * 2 ^ j) - 52 = k at *
  obtain ⟨i, rfl⟩ := Nat.exists_eq_add_of_le hk
  have e : den * (m * 2 ^ (k + i)) = den * 2 ^ k * (m * 2 ^ i) := by ring
  have hp : 0 < den * 2 ^ k := by positivity
  rw [e, rneDiv, Nat.mul_mod_right, Nat.mul_div_cancel_left _ hp, if_neg (by omega)]
  ring

/-- A quotient that is a natural number below 2^53 is exact. -/
theorem round64_exact {s : Bool} {num den i : Nat} (hd : 0 < den) (h : num = den * (i * one64)) (hi : i < 2 ^ 53) :
    (round64 s num den).HasValue (sgn s * i) := by
  have e : roundUnits num den = i * one64 := by
    rw [h]; unfold one64; exact roundUnits_exact hd hi
  have hl : i * one64 < limit64 :=
    lt_of_lt_of_le (Nat.mul_lt_mul_of_pos_right (hi.trans_le (Nat.pow_le_pow_right (by norm_num) (by norm_num))) one64_pos_nat)
      limit64_ge
  refine ⟨s, _, by rw [round64, e, if_pos hl], hl, ⟨i, 1074, by unfold one64; rfl, hi.le⟩, by push_cast; ring⟩

/-- A natural number below 2^53 is exact. -/
theorem literal64_exact {i : Nat} (hi : i < 2 ^ 53) : (literal64 i 1).HasValue i := by
  have := round64_exact (s := false) Nat.one_pos (num := i * one64) (by ring) hi
  simpa [sgn, literal64] using this

/-- A difference of natural numbers that is one below 2^53 is exact. -/
theorem sub64_exact {x y : Datum64} {u w i : Nat} (hx : x.HasValue u) (hy : y.HasValue w) (h : u = w + i) (hi : i < 2 ^ 53) :
    (sub64 x y).HasValue i := by
  obtain ⟨s, a, rfl, -, -, h3⟩ := hx
  obtain ⟨t, b, hb, -, -, h4⟩ := neg64_value hy
  have hv : signedUnits s a + signedUnits t b = ((i * one64 : ℕ) : Int) := by
    have : ((signedUnits s a + signedUnits t b : Int) : ℝ) = ((i * one64 : ℕ) : ℝ) := by
      push_cast; rw [signedUnits_eq, signedUnits_eq, ← h3, ← h4, h]; push_cast; ring
    exact_mod_cast this
  rw [sub64, hb]
  simp only [add64]
  rw [hv]
  split
  · rename_i h0
    have : i = 0 := by
      have : i * one64 = 0 := by exact_mod_cast h0
      exact (Nat.mul_eq_zero.1 this).resolve_right one64_pos_nat.ne'
    subst this; simpa using zero_value (s && t)
  · have hneg : decide (((i * one64 : ℕ) : Int) < 0) = false := decide_eq_false (not_lt.2 (Int.natCast_nonneg _))
    rw [hneg, Int.natAbs_natCast]
    have := round64_exact (s := false) Nat.one_pos (num := i * one64) (by ring) hi
    simpa [sgn] using this

/-- A product of natural numbers below 2^53 is exact. -/
theorem mul64_exact {x y : Datum64} {u w : Nat} (hx : x.HasValue u) (hy : y.HasValue w) (hi : u * w < 2 ^ 53) :
    (mul64 x y).HasValue (u * w : ℕ) := by
  obtain ⟨s, a, rfl, -, -, h3⟩ := hx
  obtain ⟨t, b, rfl, -, -, h4⟩ := hy
  have e : sgn (s ^^ t) * (a * b : ℕ) = ((one64 * (u * w * one64) : ℕ) : ℝ) := by
    rw [sgn_xor]; push_cast; linear_combination (-(w * one64 : ℝ)) * h3 - sgn s * a * h4
  have h : a * b = one64 * (u * w * one64) := by
    have := congrArg abs e
    rw [abs_mul, sgn_abs, one_mul, Nat.abs_cast, Nat.abs_cast] at this
    exact_mod_cast this
  have h1 := round64_exact (s := s ^^ t) one64_pos_nat h hi
  refine (congrArg (mul64 _ _).HasValue ?_).mp h1
  rw [h] at e
  rcases Nat.eq_zero_or_pos (u * w) with h0 | h0
  · rw [h0]; simp
  · have hp : (0 : ℝ) < ((one64 * (u * w * one64) : ℕ) : ℝ) := by
      have := one64_pos_nat
      exact_mod_cast (by positivity)
    have : sgn (s ^^ t) = 1 := by
      have := mul_right_cancel₀ hp.ne' (e.trans (one_mul _).symm)
      exact this
    rw [this, one_mul]

/-- The fields of a finite datum's pattern. -/
theorem pattern64_fields {s : Bool} {n : Nat} (hn : n < limit64) (hr : ∃ m j, n = m * 2 ^ j ∧ m ≤ 2 ^ 53) :
    ∃ e f, e < 2047 ∧ f < 2 ^ 52 ∧ (pattern64 (.fin s n)).toNat = (if s then 2 ^ 63 else 0) + e * 2 ^ 52 + f ∧
      n = if e = 0 then f else (2 ^ 52 + f) * 2 ^ (e - 1) := by
  have key : ∀ e f, e < 2047 → f < 2 ^ 52 →
      ((if s then 1 else 0 : BitVec 1) ++ BitVec.ofNat 11 e ++ BitVec.ofNat 52 f).toNat =
        (if s then 2 ^ 63 else 0) + e * 2 ^ 52 + f := by
    intro e f he hf
    rw [BitVec.toNat_append, BitVec.toNat_append, BitVec.toNat_ofNat, BitVec.toNat_ofNat,
      Nat.mod_eq_of_lt (by omega), Nat.mod_eq_of_lt hf, ← Nat.shiftLeft_add_eq_or_of_lt hf,
      ← Nat.shiftLeft_add_eq_or_of_lt (by omega : e < 2 ^ 11), Nat.shiftLeft_eq, Nat.shiftLeft_eq]
    cases s <;> simp
    ring
  rcases Nat.lt_or_ge n (2 ^ 52) with h | h
  · refine ⟨0, n, by norm_num, h, ?_, by simp⟩
    simp only [pattern64, h, if_true]
    exact key 0 n (by norm_num) h
  · have hn0 : n ≠ 0 := by omega
    have hlo := Nat.log2_self_le hn0
    have hhi : n < 2 ^ (Nat.log2 n + 1) := Nat.lt_log2_self
    have h52 : 52 ≤ Nat.log2 n := (Nat.le_log2 hn0).2 h
    have hb : Nat.log2 n < 2098 := by
      refine (Nat.log2_lt hn0).2 (hn.trans_le ?_)
      unfold limit64 one64
      exact (pow_add 2 1024 1074).ge
    have hd : 2 ^ (Nat.log2 n - 52) ∣ n := by
      obtain ⟨m, j, e, hm⟩ := hr
      rcases hm.lt_or_eq with hm | hm
      · have : Nat.log2 n < 53 + j := by
          rw [Nat.log2_lt hn0, pow_add, e]; exact Nat.mul_lt_mul_of_pos_right hm (by positivity)
        rw [e]; exact Dvd.dvd.mul_left (pow_dvd_pow 2 (by rw [← e]; omega)) m
      · have e' : n = 2 ^ (53 + j) := by rw [e, hm, pow_add]
        have : Nat.log2 n - 52 ≤ 53 + j := by rw [e', Nat.log2_two_pow]; omega
        exact e' ▸ pow_dvd_pow 2 (by rw [← e']; exact this)
    generalize hk : Nat.log2 n - 52 = k at *
    have e0 : Nat.log2 n = k + 52 := by omega
    obtain ⟨q, rfl⟩ := hd
    have hp : 0 < 2 ^ k := by positivity
    have hq1 : 2 ^ 52 ≤ q := by
      rw [e0, pow_add] at hlo; exact Nat.le_of_mul_le_mul_left hlo hp
    have hq2 : q < 2 ^ 53 := by
      rw [e0, show k + 52 + 1 = k + 53 by omega, pow_add] at hhi; exact Nat.lt_of_mul_lt_mul_left hhi
    refine ⟨k + 1, q - 2 ^ 52, by omega, by omega, ?_, ?_⟩
    · simp only [pattern64, hk, not_lt.2 h, if_false, Nat.mul_div_cancel_left _ hp]
      exact key _ _ (by omega) (by omega)
    · rw [if_neg (by omega), Nat.add_sub_cancel, Nat.add_sub_cancel' hq1, mul_comm]
end Sys2Proof.Machine
end

