-- ==== Sys2Proof/Laws/State.lean ====
section
/-! SUPPORT. What each operation of Machine/Ops.lean leaves in each register: one lemma per field and operation, all true by
definition, so that no proof unfolds a record update. -/

namespace Sys2Proof.Machine.State

variable (s : State)

@[simp] theorem setInputs_phase (es : List Input) : (s.setInputs es).phase = s.phase := rfl
@[simp] theorem setInputs_cmd (es : List Input) : (s.setInputs es).cmd = s.cmd := rfl
@[simp] theorem setInputs_arg0 (es : List Input) : (s.setInputs es).arg0 = s.arg0 := rfl
@[simp] theorem setInputs_arg1 (es : List Input) : (s.setInputs es).arg1 = s.arg1 := rfl
@[simp] theorem setInputs_arg2 (es : List Input) : (s.setInputs es).arg2 = s.arg2 := rfl
@[simp] theorem setInputs_frame (es : List Input) : (s.setInputs es).frame = s.frame := rfl
@[simp] theorem setInputs_dly (es : List Input) : (s.setInputs es).dly = s.dly := rfl
@[simp] theorem setInputs_rb (es : List Input) : (s.setInputs es).rb = s.rb := rfl
@[simp] theorem setInputs_resp (es : List Input) : (s.setInputs es).resp = s.resp := rfl
@[simp] theorem setInputs_rcnt (es : List Input) : (s.setInputs es).rcnt = s.rcnt := rfl
@[simp] theorem setInputs_status (es : List Input) : (s.setInputs es).status = s.status := rfl
@[simp] theorem setInputs_result (es : List Input) : (s.setInputs es).result = s.result := rfl
@[simp] theorem setInputs_diag (es : List Input) : (s.setInputs es).diag = s.diag := rfl
@[simp] theorem setInputs_refused (es : List Input) : (s.setInputs es).refused = s.refused := rfl
@[simp] theorem setInputs_inputs (es : List Input) : (s.setInputs es).inputs = es := rfl
@[simp] theorem setInputs_trace (es : List Input) : (s.setInputs es).trace = s.trace := rfl

@[simp] theorem note_phase (ev : BusEvent) : (s.note ev).phase = s.phase := rfl
@[simp] theorem note_cmd (ev : BusEvent) : (s.note ev).cmd = s.cmd := rfl
@[simp] theorem note_arg0 (ev : BusEvent) : (s.note ev).arg0 = s.arg0 := rfl
@[simp] theorem note_arg1 (ev : BusEvent) : (s.note ev).arg1 = s.arg1 := rfl
@[simp] theorem note_arg2 (ev : BusEvent) : (s.note ev).arg2 = s.arg2 := rfl
@[simp] theorem note_frame (ev : BusEvent) : (s.note ev).frame = s.frame := rfl
@[simp] theorem note_dly (ev : BusEvent) : (s.note ev).dly = s.dly := rfl
@[simp] theorem note_rb (ev : BusEvent) : (s.note ev).rb = s.rb := rfl
@[simp] theorem note_resp (ev : BusEvent) : (s.note ev).resp = s.resp := rfl
@[simp] theorem note_rcnt (ev : BusEvent) : (s.note ev).rcnt = s.rcnt := rfl
@[simp] theorem note_status (ev : BusEvent) : (s.note ev).status = s.status := rfl
@[simp] theorem note_result (ev : BusEvent) : (s.note ev).result = s.result := rfl
@[simp] theorem note_diag (ev : BusEvent) : (s.note ev).diag = s.diag := rfl
@[simp] theorem note_refused (ev : BusEvent) : (s.note ev).refused = s.refused := rfl
@[simp] theorem note_inputs (ev : BusEvent) : (s.note ev).inputs = s.inputs := rfl
@[simp] theorem note_trace (ev : BusEvent) : (s.note ev).trace = s.trace ++ [ev] := rfl

@[simp] theorem latch_phase (c : CmdId) (a0 a1 a2 : Word) (f : Frame) : (s.latch c a0 a1 a2 f).phase = .write := rfl
@[simp] theorem latch_cmd (c : CmdId) (a0 a1 a2 : Word) (f : Frame) : (s.latch c a0 a1 a2 f).cmd = .holds c := rfl
@[simp] theorem latch_arg0 (c : CmdId) (a0 a1 a2 : Word) (f : Frame) : (s.latch c a0 a1 a2 f).arg0 = .holds a0 := rfl
@[simp] theorem latch_arg1 (c : CmdId) (a0 a1 a2 : Word) (f : Frame) : (s.latch c a0 a1 a2 f).arg1 = .holds a1 := rfl
@[simp] theorem latch_arg2 (c : CmdId) (a0 a1 a2 : Word) (f : Frame) : (s.latch c a0 a1 a2 f).arg2 = .holds a2 := rfl
@[simp] theorem latch_frame (c : CmdId) (a0 a1 a2 : Word) (f : Frame) : (s.latch c a0 a1 a2 f).frame = .holds f := rfl
@[simp] theorem latch_dly (c : CmdId) (a0 a1 a2 : Word) (f : Frame) : (s.latch c a0 a1 a2 f).dly = s.dly := rfl
@[simp] theorem latch_rb (c : CmdId) (a0 a1 a2 : Word) (f : Frame) : (s.latch c a0 a1 a2 f).rb = s.rb := rfl
@[simp] theorem latch_resp (c : CmdId) (a0 a1 a2 : Word) (f : Frame) : (s.latch c a0 a1 a2 f).resp = [] := rfl
@[simp] theorem latch_rcnt (c : CmdId) (a0 a1 a2 : Word) (f : Frame) : (s.latch c a0 a1 a2 f).rcnt = 0 := rfl
@[simp] theorem latch_status (c : CmdId) (a0 a1 a2 : Word) (f : Frame) : (s.latch c a0 a1 a2 f).status = .unwritten := rfl
@[simp] theorem latch_result (c : CmdId) (a0 a1 a2 : Word) (f : Frame) : (s.latch c a0 a1 a2 f).result = .unwritten := rfl
@[simp] theorem latch_diag (c : CmdId) (a0 a1 a2 : Word) (f : Frame) : (s.latch c a0 a1 a2 f).diag = .unwritten := rfl
@[simp] theorem latch_refused (c : CmdId) (a0 a1 a2 : Word) (f : Frame) : (s.latch c a0 a1 a2 f).refused = s.refused := rfl
@[simp] theorem latch_inputs (c : CmdId) (a0 a1 a2 : Word) (f : Frame) : (s.latch c a0 a1 a2 f).inputs = s.inputs := rfl
@[simp] theorem latch_trace (c : CmdId) (a0 a1 a2 : Word) (f : Frame) : (s.latch c a0 a1 a2 f).trace = s.trace ++ [.issued (.wr4 .main f)] := rfl

@[simp] theorem refuse_phase : s.refuse.phase = .idle := rfl
@[simp] theorem refuse_cmd : s.refuse.cmd = s.cmd := rfl
@[simp] theorem refuse_arg0 : s.refuse.arg0 = s.arg0 := rfl
@[simp] theorem refuse_arg1 : s.refuse.arg1 = s.arg1 := rfl
@[simp] theorem refuse_arg2 : s.refuse.arg2 = s.arg2 := rfl
@[simp] theorem refuse_frame : s.refuse.frame = s.frame := rfl
@[simp] theorem refuse_dly : s.refuse.dly = s.dly := rfl
@[simp] theorem refuse_rb : s.refuse.rb = s.rb := rfl
@[simp] theorem refuse_resp : s.refuse.resp = s.resp := rfl
@[simp] theorem refuse_rcnt : s.refuse.rcnt = s.rcnt := rfl
@[simp] theorem refuse_status : s.refuse.status = s.status := rfl
@[simp] theorem refuse_result : s.refuse.result = s.result := rfl
@[simp] theorem refuse_diag : s.refuse.diag = s.diag := rfl
@[simp] theorem refuse_refused : s.refuse.refused = true := rfl
@[simp] theorem refuse_inputs : s.refuse.inputs = s.inputs := rfl
@[simp] theorem refuse_trace : s.refuse.trace = s.trace := rfl

@[simp] theorem resetRegs_phase : s.resetRegs.phase = State.reset.phase := rfl
@[simp] theorem resetRegs_cmd : s.resetRegs.cmd = State.reset.cmd := rfl
@[simp] theorem resetRegs_arg0 : s.resetRegs.arg0 = State.reset.arg0 := rfl
@[simp] theorem resetRegs_arg1 : s.resetRegs.arg1 = State.reset.arg1 := rfl
@[simp] theorem resetRegs_arg2 : s.resetRegs.arg2 = State.reset.arg2 := rfl
@[simp] theorem resetRegs_frame : s.resetRegs.frame = State.reset.frame := rfl
@[simp] theorem resetRegs_dly : s.resetRegs.dly = State.reset.dly := rfl
@[simp] theorem resetRegs_rb : s.resetRegs.rb = State.reset.rb := rfl
@[simp] theorem resetRegs_resp : s.resetRegs.resp = State.reset.resp := rfl
@[simp] theorem resetRegs_rcnt : s.resetRegs.rcnt = State.reset.rcnt := rfl
@[simp] theorem resetRegs_status : s.resetRegs.status = State.reset.status := rfl
@[simp] theorem resetRegs_result : s.resetRegs.result = State.reset.result := rfl
@[simp] theorem resetRegs_diag : s.resetRegs.diag = State.reset.diag := rfl
@[simp] theorem resetRegs_refused : s.resetRegs.refused = State.reset.refused := rfl
@[simp] theorem resetRegs_inputs : s.resetRegs.inputs = s.inputs := rfl
@[simp] theorem resetRegs_trace : s.resetRegs.trace = s.trace ++ (if s.phase.onBus then [.abandoned] else []) := rfl

@[simp] theorem takeBusError_phase (d : Diag) : (s.takeBusError d).phase = .done := rfl
@[simp] theorem takeBusError_cmd (d : Diag) : (s.takeBusError d).cmd = s.cmd := rfl
@[simp] theorem takeBusError_arg0 (d : Diag) : (s.takeBusError d).arg0 = s.arg0 := rfl
@[simp] theorem takeBusError_arg1 (d : Diag) : (s.takeBusError d).arg1 = s.arg1 := rfl
@[simp] theorem takeBusError_arg2 (d : Diag) : (s.takeBusError d).arg2 = s.arg2 := rfl
@[simp] theorem takeBusError_frame (d : Diag) : (s.takeBusError d).frame = s.frame := rfl
@[simp] theorem takeBusError_dly (d : Diag) : (s.takeBusError d).dly = s.dly := rfl
@[simp] theorem takeBusError_rb (d : Diag) : (s.takeBusError d).rb = s.rb := rfl
@[simp] theorem takeBusError_resp (d : Diag) : (s.takeBusError d).resp = s.resp := rfl
@[simp] theorem takeBusError_rcnt (d : Diag) : (s.takeBusError d).rcnt = s.rcnt := rfl
@[simp] theorem takeBusError_status (d : Diag) : (s.takeBusError d).status = .holds .busError := rfl
@[simp] theorem takeBusError_result (d : Diag) : (s.takeBusError d).result = s.result := rfl
@[simp] theorem takeBusError_diag (d : Diag) : (s.takeBusError d).diag = .holds d := rfl
@[simp] theorem takeBusError_refused (d : Diag) : (s.takeBusError d).refused = s.refused := rfl
@[simp] theorem takeBusError_inputs (d : Diag) : (s.takeBusError d).inputs = s.inputs := rfl
@[simp] theorem takeBusError_trace (d : Diag) : (s.takeBusError d).trace = s.trace := rfl

@[simp] theorem finish_phase (v : Verdict) : (s.finish v).phase = .done := rfl
@[simp] theorem finish_cmd (v : Verdict) : (s.finish v).cmd = s.cmd := rfl
@[simp] theorem finish_arg0 (v : Verdict) : (s.finish v).arg0 = s.arg0 := rfl
@[simp] theorem finish_arg1 (v : Verdict) : (s.finish v).arg1 = s.arg1 := rfl
@[simp] theorem finish_arg2 (v : Verdict) : (s.finish v).arg2 = s.arg2 := rfl
@[simp] theorem finish_frame (v : Verdict) : (s.finish v).frame = s.frame := rfl
@[simp] theorem finish_dly (v : Verdict) : (s.finish v).dly = s.dly := rfl
@[simp] theorem finish_rb (v : Verdict) : (s.finish v).rb = s.rb := rfl
@[simp] theorem finish_resp (v : Verdict) : (s.finish v).resp = s.resp := rfl
@[simp] theorem finish_rcnt (v : Verdict) : (s.finish v).rcnt = s.rcnt := rfl
@[simp] theorem finish_status (v : Verdict) : (s.finish v).status = .holds v.status := rfl
@[simp] theorem finish_diag (v : Verdict) : (s.finish v).diag = s.diag := rfl
@[simp] theorem finish_refused (v : Verdict) : (s.finish v).refused = s.refused := rfl
@[simp] theorem finish_inputs (v : Verdict) : (s.finish v).inputs = s.inputs := rfl
@[simp] theorem finish_trace (v : Verdict) : (s.finish v).trace = s.trace := rfl

@[simp] theorem loadDelay_phase (p : Phase) (n : Nat) : (s.loadDelay p n).phase = p := rfl
@[simp] theorem loadDelay_cmd (p : Phase) (n : Nat) : (s.loadDelay p n).cmd = s.cmd := rfl
@[simp] theorem loadDelay_arg0 (p : Phase) (n : Nat) : (s.loadDelay p n).arg0 = s.arg0 := rfl
@[simp] theorem loadDelay_arg1 (p : Phase) (n : Nat) : (s.loadDelay p n).arg1 = s.arg1 := rfl
@[simp] theorem loadDelay_arg2 (p : Phase) (n : Nat) : (s.loadDelay p n).arg2 = s.arg2 := rfl
@[simp] theorem loadDelay_frame (p : Phase) (n : Nat) : (s.loadDelay p n).frame = s.frame := rfl
@[simp] theorem loadDelay_dly (p : Phase) (n : Nat) : (s.loadDelay p n).dly = BitVec.ofNat 32 n := rfl
@[simp] theorem loadDelay_rb (p : Phase) (n : Nat) : (s.loadDelay p n).rb = s.rb := rfl
@[simp] theorem loadDelay_resp (p : Phase) (n : Nat) : (s.loadDelay p n).resp = s.resp := rfl
@[simp] theorem loadDelay_rcnt (p : Phase) (n : Nat) : (s.loadDelay p n).rcnt = s.rcnt := rfl
@[simp] theorem loadDelay_status (p : Phase) (n : Nat) : (s.loadDelay p n).status = s.status := rfl
@[simp] theorem loadDelay_result (p : Phase) (n : Nat) : (s.loadDelay p n).result = s.result := rfl
@[simp] theorem loadDelay_diag (p : Phase) (n : Nat) : (s.loadDelay p n).diag = s.diag := rfl
@[simp] theorem loadDelay_refused (p : Phase) (n : Nat) : (s.loadDelay p n).refused = s.refused := rfl
@[simp] theorem loadDelay_inputs (p : Phase) (n : Nat) : (s.loadDelay p n).inputs = s.inputs := rfl
@[simp] theorem loadDelay_trace (p : Phase) (n : Nat) : (s.loadDelay p n).trace = s.trace := rfl

@[simp] theorem issueByte_phase : s.issueByte.phase = .rdByte := rfl
@[simp] theorem issueByte_cmd : s.issueByte.cmd = s.cmd := rfl
@[simp] theorem issueByte_arg0 : s.issueByte.arg0 = s.arg0 := rfl
@[simp] theorem issueByte_arg1 : s.issueByte.arg1 = s.arg1 := rfl
@[simp] theorem issueByte_arg2 : s.issueByte.arg2 = s.arg2 := rfl
@[simp] theorem issueByte_frame : s.issueByte.frame = s.frame := rfl
@[simp] theorem issueByte_dly : s.issueByte.dly = s.dly := rfl
@[simp] theorem issueByte_rb : s.issueByte.rb = s.rb := rfl
@[simp] theorem issueByte_resp : s.issueByte.resp = s.resp := rfl
@[simp] theorem issueByte_rcnt : s.issueByte.rcnt = s.rcnt := rfl
@[simp] theorem issueByte_status : s.issueByte.status = s.status := rfl
@[simp] theorem issueByte_result : s.issueByte.result = s.result := rfl
@[simp] theorem issueByte_diag : s.issueByte.diag = s.diag := rfl
@[simp] theorem issueByte_refused : s.issueByte.refused = s.refused := rfl
@[simp] theorem issueByte_inputs : s.issueByte.inputs = s.inputs := rfl
@[simp] theorem issueByte_trace : s.issueByte.trace = s.trace ++ [.issued (.rd1 .main)] := rfl

@[simp] theorem issueBlock_phase (e : CtEntry) : (s.issueBlock e).phase = .rdBlk := rfl
@[simp] theorem issueBlock_cmd (e : CtEntry) : (s.issueBlock e).cmd = s.cmd := rfl
@[simp] theorem issueBlock_arg0 (e : CtEntry) : (s.issueBlock e).arg0 = s.arg0 := rfl
@[simp] theorem issueBlock_arg1 (e : CtEntry) : (s.issueBlock e).arg1 = s.arg1 := rfl
@[simp] theorem issueBlock_arg2 (e : CtEntry) : (s.issueBlock e).arg2 = s.arg2 := rfl
@[simp] theorem issueBlock_frame (e : CtEntry) : (s.issueBlock e).frame = s.frame := rfl
@[simp] theorem issueBlock_dly (e : CtEntry) : (s.issueBlock e).dly = s.dly := rfl
@[simp] theorem issueBlock_rb (e : CtEntry) : (s.issueBlock e).rb = s.rb := rfl
@[simp] theorem issueBlock_resp (e : CtEntry) : (s.issueBlock e).resp = s.resp := rfl
@[simp] theorem issueBlock_rcnt (e : CtEntry) : (s.issueBlock e).rcnt = s.rcnt := rfl
@[simp] theorem issueBlock_status (e : CtEntry) : (s.issueBlock e).status = s.status := rfl
@[simp] theorem issueBlock_result (e : CtEntry) : (s.issueBlock e).result = s.result := rfl
@[simp] theorem issueBlock_diag (e : CtEntry) : (s.issueBlock e).diag = s.diag := rfl
@[simp] theorem issueBlock_refused (e : CtEntry) : (s.issueBlock e).refused = s.refused := rfl
@[simp] theorem issueBlock_inputs (e : CtEntry) : (s.issueBlock e).inputs = s.inputs := rfl
@[simp] theorem issueBlock_trace (e : CtEntry) : (s.issueBlock e).trace = s.trace ++ [.issued (.rdn e.raddr e.rlen)] := rfl

@[simp] theorem setRb_phase (b : Byte) : (s.setRb b).phase = s.phase := rfl
@[simp] theorem setRb_cmd (b : Byte) : (s.setRb b).cmd = s.cmd := rfl
@[simp] theorem setRb_arg0 (b : Byte) : (s.setRb b).arg0 = s.arg0 := rfl
@[simp] theorem setRb_arg1 (b : Byte) : (s.setRb b).arg1 = s.arg1 := rfl
@[simp] theorem setRb_arg2 (b : Byte) : (s.setRb b).arg2 = s.arg2 := rfl
@[simp] theorem setRb_frame (b : Byte) : (s.setRb b).frame = s.frame := rfl
@[simp] theorem setRb_dly (b : Byte) : (s.setRb b).dly = s.dly := rfl
@[simp] theorem setRb_rb (b : Byte) : (s.setRb b).rb = .holds b := rfl
@[simp] theorem setRb_resp (b : Byte) : (s.setRb b).resp = s.resp := rfl
@[simp] theorem setRb_rcnt (b : Byte) : (s.setRb b).rcnt = s.rcnt := rfl
@[simp] theorem setRb_status (b : Byte) : (s.setRb b).status = s.status := rfl
@[simp] theorem setRb_result (b : Byte) : (s.setRb b).result = s.result := rfl
@[simp] theorem setRb_diag (b : Byte) : (s.setRb b).diag = s.diag := rfl
@[simp] theorem setRb_refused (b : Byte) : (s.setRb b).refused = s.refused := rfl
@[simp] theorem setRb_inputs (b : Byte) : (s.setRb b).inputs = s.inputs := rfl
@[simp] theorem setRb_trace (b : Byte) : (s.setRb b).trace = s.trace := rfl

@[simp] theorem setResp_phase (bs : List Byte) : (s.setResp bs).phase = s.phase := rfl
@[simp] theorem setResp_cmd (bs : List Byte) : (s.setResp bs).cmd = s.cmd := rfl
@[simp] theorem setResp_arg0 (bs : List Byte) : (s.setResp bs).arg0 = s.arg0 := rfl
@[simp] theorem setResp_arg1 (bs : List Byte) : (s.setResp bs).arg1 = s.arg1 := rfl
@[simp] theorem setResp_arg2 (bs : List Byte) : (s.setResp bs).arg2 = s.arg2 := rfl
@[simp] theorem setResp_frame (bs : List Byte) : (s.setResp bs).frame = s.frame := rfl
@[simp] theorem setResp_dly (bs : List Byte) : (s.setResp bs).dly = s.dly := rfl
@[simp] theorem setResp_rb (bs : List Byte) : (s.setResp bs).rb = s.rb := rfl
@[simp] theorem setResp_resp (bs : List Byte) : (s.setResp bs).resp = bs := rfl
@[simp] theorem setResp_rcnt (bs : List Byte) : (s.setResp bs).rcnt = BitVec.ofNat 5 bs.length := rfl
@[simp] theorem setResp_status (bs : List Byte) : (s.setResp bs).status = s.status := rfl
@[simp] theorem setResp_result (bs : List Byte) : (s.setResp bs).result = s.result := rfl
@[simp] theorem setResp_diag (bs : List Byte) : (s.setResp bs).diag = s.diag := rfl
@[simp] theorem setResp_refused (bs : List Byte) : (s.setResp bs).refused = s.refused := rfl
@[simp] theorem setResp_inputs (bs : List Byte) : (s.setResp bs).inputs = s.inputs := rfl
@[simp] theorem setResp_trace (bs : List Byte) : (s.setResp bs).trace = s.trace := rfl

@[simp] theorem toDecode_phase : s.toDecode.phase = .decode := rfl
@[simp] theorem toDecode_cmd : s.toDecode.cmd = s.cmd := rfl
@[simp] theorem toDecode_arg0 : s.toDecode.arg0 = s.arg0 := rfl
@[simp] theorem toDecode_arg1 : s.toDecode.arg1 = s.arg1 := rfl
@[simp] theorem toDecode_arg2 : s.toDecode.arg2 = s.arg2 := rfl
@[simp] theorem toDecode_frame : s.toDecode.frame = s.frame := rfl
@[simp] theorem toDecode_dly : s.toDecode.dly = s.dly := rfl
@[simp] theorem toDecode_rb : s.toDecode.rb = s.rb := rfl
@[simp] theorem toDecode_resp : s.toDecode.resp = s.resp := rfl
@[simp] theorem toDecode_rcnt : s.toDecode.rcnt = s.rcnt := rfl
@[simp] theorem toDecode_status : s.toDecode.status = s.status := rfl
@[simp] theorem toDecode_result : s.toDecode.result = s.result := rfl
@[simp] theorem toDecode_diag : s.toDecode.diag = s.diag := rfl
@[simp] theorem toDecode_refused : s.toDecode.refused = s.refused := rfl
@[simp] theorem toDecode_inputs : s.toDecode.inputs = s.inputs := rfl
@[simp] theorem toDecode_trace : s.toDecode.trace = s.trace := rfl

@[simp] theorem beginHold_phase (e : CtEntry) : (s.beginHold e).phase = .wait2 := rfl
@[simp] theorem beginHold_cmd (e : CtEntry) : (s.beginHold e).cmd = s.cmd := rfl
@[simp] theorem beginHold_arg0 (e : CtEntry) : (s.beginHold e).arg0 = s.arg0 := rfl
@[simp] theorem beginHold_arg1 (e : CtEntry) : (s.beginHold e).arg1 = s.arg1 := rfl
@[simp] theorem beginHold_arg2 (e : CtEntry) : (s.beginHold e).arg2 = s.arg2 := rfl
@[simp] theorem beginHold_frame (e : CtEntry) : (s.beginHold e).frame = s.frame := rfl
@[simp] theorem beginHold_dly (e : CtEntry) : (s.beginHold e).dly = BitVec.ofNat 32 (ticks e.d2) := rfl
@[simp] theorem beginHold_rb (e : CtEntry) : (s.beginHold e).rb = s.rb := rfl
@[simp] theorem beginHold_resp (e : CtEntry) : (s.beginHold e).resp = s.resp := rfl
@[simp] theorem beginHold_rcnt (e : CtEntry) : (s.beginHold e).rcnt = s.rcnt := rfl
@[simp] theorem beginHold_status (e : CtEntry) : (s.beginHold e).status = s.status := rfl
@[simp] theorem beginHold_result (e : CtEntry) : (s.beginHold e).result = s.result := rfl
@[simp] theorem beginHold_diag (e : CtEntry) : (s.beginHold e).diag = s.diag := rfl
@[simp] theorem beginHold_refused (e : CtEntry) : (s.beginHold e).refused = s.refused := rfl
@[simp] theorem beginHold_inputs (e : CtEntry) : (s.beginHold e).inputs = s.inputs := rfl
@[simp] theorem beginHold_trace (e : CtEntry) : (s.beginHold e).trace = s.trace := rfl

@[simp] theorem finish_result_ok (r : Result) : (s.finish (.ok r)).result = .holds r := rfl
@[simp] theorem finish_result_noData : (s.finish .noData).result = s.result := rfl
@[simp] theorem finish_result_invalidReading : (s.finish .invalidReading).result = s.result := rfl

@[simp] theorem countTick_phase : s.countTick.phase = s.phase := by unfold countTick; split <;> rfl
@[simp] theorem countTick_cmd : s.countTick.cmd = s.cmd := by unfold countTick; split <;> rfl
@[simp] theorem countTick_arg0 : s.countTick.arg0 = s.arg0 := by unfold countTick; split <;> rfl
@[simp] theorem countTick_arg1 : s.countTick.arg1 = s.arg1 := by unfold countTick; split <;> rfl
@[simp] theorem countTick_arg2 : s.countTick.arg2 = s.arg2 := by unfold countTick; split <;> rfl
@[simp] theorem countTick_frame : s.countTick.frame = s.frame := by unfold countTick; split <;> rfl
@[simp] theorem countTick_rb : s.countTick.rb = s.rb := by unfold countTick; split <;> rfl
@[simp] theorem countTick_resp : s.countTick.resp = s.resp := by unfold countTick; split <;> rfl
@[simp] theorem countTick_rcnt : s.countTick.rcnt = s.rcnt := by unfold countTick; split <;> rfl
@[simp] theorem countTick_status : s.countTick.status = s.status := by unfold countTick; split <;> rfl
@[simp] theorem countTick_result : s.countTick.result = s.result := by unfold countTick; split <;> rfl
@[simp] theorem countTick_diag : s.countTick.diag = s.diag := by unfold countTick; split <;> rfl
@[simp] theorem countTick_refused : s.countTick.refused = s.refused := by unfold countTick; split <;> rfl
@[simp] theorem countTick_inputs : s.countTick.inputs = s.inputs := by unfold countTick; split <;> rfl
@[simp] theorem countTick_trace : s.countTick.trace = s.trace := by unfold countTick; split <;> rfl

/-- A tick counts in a wait with `DLY > 0`, and is ignored everywhere else. -/
theorem countTick_dly : s.countTick.dly = if s.phase.waiting && s.dly != 0 then s.dly - 1 else s.dly := by
  unfold countTick; split <;> rfl

/-- A tick never raises `DLY`. -/
theorem countTick_dly_le : s.countTick.dly.toNat ≤ s.dly.toNat := by
  rw [countTick_dly]
  split
  · rename_i h
    simp only [Bool.and_eq_true, bne_iff_ne, ne_eq] at h
    have := h.2
    bv_omega
  · exact le_rfl

@[simp] theorem respAt_nil (h : s.resp = []) (i : Nat) : s.respAt i = .unwritten := by simp [respAt, h]

/-- `RESP[i]` holds a value exactly below the end of the written bytes. -/
theorem respAt_eq_holds (i : Nat) (b : Byte) : s.respAt i = .holds b ↔ s.resp[i]? = some b := by
  unfold respAt; split <;> simp_all

end Sys2Proof.Machine.State
end

