-- ==== Sys2Proof/Laws/Ops.lean ====
section
/-! SUPPORT. What the reads of the latched command and of the frame can do. -/

namespace Sys2Proof.Machine

variable {G : Params} {s t : State} {c : CmdId} {e : CtEntry} {f : Frame}

@[simp] theorem defaultParams_table : defaultParams.table = commandTable := rfl

@[simp] theorem defaultParams_thermFn : defaultParams.thermFn = Config.thermFn := rfl

theorem withEntry_eq (k : CtEntry → Out) (hc : s.cmd = .holds c) (he : lookup G.table c = some e) :
    withEntry G s k = k e := by
  simp [withEntry, hc, he]

theorem withFrame_eq (k : Frame → Out) (hf : s.frame = .holds f) : withFrame s k = k f := by
  simp [withFrame, hf]

/-- A continuation of the mux that answers a next state was given the latched command's entry. -/
theorem withEntry_next {k : CtEntry → Out} (h : withEntry G s k = .next t) :
    ∃ c e, s.cmd = .holds c ∧ lookup G.table c = some e ∧ k e = .next t := by
  unfold withEntry at h
  split at h
  · cases h
  · split at h
    · cases h
    · exact ⟨_, _, ‹_›, ‹_›, h⟩

/-- A continuation of the frame register that answers a next state was given its content. -/
theorem withFrame_next {k : Frame → Out} (h : withFrame s k = .next t) :
    ∃ f, s.frame = .holds f ∧ k f = .next t := by
  unfold withFrame at h
  split at h
  · cases h
  · exact ⟨_, ‹_›, h⟩

end Sys2Proof.Machine
end

