-- ==== Sys2Proof/Laws/Engine.lean ====
section
/-! SUPPORT. What the engine's steps can do. `Took` lists the rules of 40_core.md R161 to R176 as a relation between an event,
the state before and the state after; `engineStep_took` says that every step that answers a next state follows one of
them. `drive_invariant` packages the induction over the events of a command. -/

namespace Sys2Proof.Machine

variable {G : Params} {s t : State} {ev : Input} {es rest : List Input}

/-- One step of the engine by the rule it follows. -/
inductive Took (G : Params) : Input → State → State → Prop where
  | reset (s : State) : Took G .rst s s.resetRegs
  | accepted (s : State) (c : CmdId) (a0 a1 a2 : Word) (e : CtEntry) (hr : s.ready = true) (he : lookup G.table c = some e) :
      Took G (.req c a0 a1 a2) s (s.latch c a0 a1 a2 (encodeFrame e a0 a1 a2))
  | refused (s : State) (c : CmdId) (a0 a1 a2 : Word) (hr : s.ready = true) (he : lookup G.table c = none) :
      Took G (.req c a0 a1 a2) s s.refuse
  | notSampled (s : State) (c : CmdId) (a0 a1 a2 : Word) (hr : s.ready = false) : Took G (.req c a0 a1 a2) s s
  | ticked (s : State) : Took G .tick s s.countTick
  | failed (s : State) (d : Diag) (hp : s.phase.onBus = true) :
      Took G (.answer (.fail d)) s ((s.note (.answered (.fail d))).takeBusError d)
  | wrote (s : State) (x : List Byte) (c : CmdId) (e : CtEntry) (f : Frame) (hp : s.phase = .write)
      (hc : s.cmd = .holds c) (he : lookup G.table c = some e) (hf : s.frame = .holds f) :
      Took G (.answer (.ok x)) s ((s.note (.answered (.ok x))).loadDelay .wait1 (settle e f))
  | readByte (s : State) (b : Byte) (x : List Byte) (c : CmdId) (e : CtEntry) (hp : s.phase = .rdByte)
      (hc : s.cmd = .holds c) (he : lookup G.table c = some e) (hk : e.rk = .byte) :
      Took G (.answer (.ok (b :: x))) s (((s.note (.answered (.ok (b :: x)))).setRb b).beginHold e)
  | discarded (s : State) (b : Byte) (x : List Byte) (c : CmdId) (e : CtEntry) (hp : s.phase = .rdByte)
      (hc : s.cmd = .holds c) (he : lookup G.table c = some e) (hk : e.rk ≠ .byte) :
      Took G (.answer (.ok (b :: x))) s (((s.note (.answered (.ok (b :: x)))).setRb b).issueBlock e)
  | readBlock (s : State) (x : List Byte) (c : CmdId) (e : CtEntry) (hp : s.phase = .rdBlk)
      (hc : s.cmd = .holds c) (he : lookup G.table c = some e) (hl : x.length ≤ e.rlen.toNat) :
      Took G (.answer (.ok x)) s (((s.note (.answered (.ok x))).setResp x).beginHold e)
  | unsolicited (s : State) (a : Answer) (hp : s.phase.onBus = false) : Took G (.answer a) s s
  | endedWrite (s : State) (c : CmdId) (e : CtEntry) (hp : s.phase = .wait1) (hd : s.dly = 0)
      (hc : s.cmd = .holds c) (he : lookup G.table c = some e) (hk : e.rk = .none) : Took G .go s (s.finish (.ok .none))
  | toByte (s : State) (c : CmdId) (e : CtEntry) (hp : s.phase = .wait1) (hd : s.dly = 0)
      (hc : s.cmd = .holds c) (he : lookup G.table c = some e)
      (hk : e.rk = .byte ∨ (e.rk = .block ∧ e.disc = true)) : Took G .go s s.issueByte
  | toBlock (s : State) (c : CmdId) (e : CtEntry) (hp : s.phase = .wait1) (hd : s.dly = 0)
      (hc : s.cmd = .holds c) (he : lookup G.table c = some e) (hk : e.rk = .block) (hdisc : e.disc = false) :
      Took G .go s (s.issueBlock e)
  | heldOut (s : State) (hp : s.phase = .wait2) (hd : s.dly = 0) : Took G .go s s.toDecode
  | decoded (s : State) (c : CmdId) (e : CtEntry) (v : Verdict) (hp : s.phase = .decode)
      (hc : s.cmd = .holds c) (he : lookup G.table c = some e) (hv : decodePayload G.thermFn e.fmt s = .ok v) :
      Took G .go s (s.finish v)
  | notEnabled (s : State)
      (hp : (s.phase.waiting = true ∧ s.dly ≠ 0) ∨ s.ready = true ∨ s.phase.onBus = true) : Took G .go s s

theorem answerWrite_took {a : Answer} (hp : s.phase = .write) (h : answerWrite G a s = .next t) :
    Took G (.answer a) s t := by
  unfold answerWrite at h
  split at h
  · cases h; exact .failed s _ (by simp [hp, Phase.onBus])
  · obtain ⟨c, e, hc, he, h⟩ := withEntry_next h
    obtain ⟨f, hf, h⟩ := withFrame_next h
    cases h; exact .wrote s _ c e f hp hc he hf

theorem answerByte_took {a : Answer} (hp : s.phase = .rdByte) (h : answerByte G a s = .next t) :
    Took G (.answer a) s t := by
  unfold answerByte at h
  split at h
  · cases h; exact .failed s _ (by simp [hp, Phase.onBus])
  · cases h
  · obtain ⟨c, e, hc, he, h⟩ := withEntry_next h
    split at h <;> cases h
    · exact .readByte s _ _ c e hp hc he ‹_›
    · exact .discarded s _ _ c e hp hc he (by simp_all)
    · exact .discarded s _ _ c e hp hc he (by simp_all)

theorem answerBlock_took {a : Answer} (hp : s.phase = .rdBlk) (h : answerBlock G a s = .next t) :
    Took G (.answer a) s t := by
  unfold answerBlock at h
  split at h
  · cases h; exact .failed s _ (by simp [hp, Phase.onBus])
  · obtain ⟨c, e, hc, he, h⟩ := withEntry_next h
    split at h <;> cases h
    exact .readBlock s _ c e hp hc he (by omega)

theorem takeAnswer_took {a : Answer} (h : takeAnswer G a s = .next t) : Took G (.answer a) s t := by
  unfold takeAnswer at h
  split at h
  · exact answerWrite_took ‹_› h
  · exact answerByte_took ‹_› h
  · exact answerBlock_took ‹_› h
  all_goals cases h; exact .unsolicited s a (by simp [*, Phase.onBus])

theorem exitWait1_took (hp : s.phase = .wait1) (hd : s.dly = 0) (h : exitWait1 G s = .next t) : Took G .go s t := by
  obtain ⟨c, e, hc, he, h⟩ := withEntry_next h
  split at h
  · cases h; exact .endedWrite s c e hp hd hc he ‹_›
  · cases h; exact .toByte s c e hp hd hc he (.inl ‹_›)
  · split at h <;> cases h
    · exact .toByte s c e hp hd hc he (.inr ⟨‹_›, ‹_›⟩)
    · exact .toBlock s c e hp hd hc he ‹_› (by simp_all)

theorem decodeStep_took (hp : s.phase = .decode) (h : decodeStep G s = .next t) : Took G .go s t := by
  obtain ⟨c, e, hc, he, h⟩ := withEntry_next h
  split at h <;> cases h
  exact .decoded s c e _ hp hc he ‹_›

theorem takeGo_took (h : takeGo G s = .next t) : Took G .go s t := by
  unfold takeGo at h
  split at h
  · split at h
    · exact exitWait1_took ‹_› ‹_› h
    · cases h; exact .notEnabled s (.inl ⟨by simp [*, Phase.waiting], ‹_›⟩)
  · split at h
    · cases h; exact .heldOut s ‹_› ‹_›
    · cases h; exact .notEnabled s (.inl ⟨by simp [*, Phase.waiting], ‹_›⟩)
  · exact decodeStep_took ‹_› h
  all_goals cases h; exact .notEnabled s (.inr (by simp [*, State.ready, Phase.ready, Phase.onBus]))

/-- A step of the engine that answers a next state follows one of the rules. -/
theorem engineStep_took (h : engineStep G ev s = .next t) : Took G ev s t := by
  unfold engineStep at h
  split at h
  · cases h; exact .reset s
  · cases h
    unfold takeRequest
    split
    · split
      · exact .accepted s _ _ _ _ _ ‹_› ‹_›
      · exact .refused s _ _ _ _ ‹_› ‹_›
    · exact .notSampled s _ _ _ _ (Bool.not_eq_true _ ▸ ‹¬s.ready = true›)
  · cases h; exact .ticked s
  · exact takeAnswer_took h
  · exact takeGo_took h

/-- No step of the engine touches the events to come. -/
theorem Took.inputs (h : Took G ev s t) : t.inputs = s.inputs := by cases h <;> simp

@[simp] theorem ready_setInputs (s : State) (es : List Input) : (s.setInputs es).ready = s.ready := rfl

@[simp] theorem setInputs_self (s : State) : s.setInputs s.inputs = s := rfl

@[simp] theorem setInputs_setInputs (s : State) (es es' : List Input) :
    (s.setInputs es).setInputs es' = s.setInputs es' := rfl

theorem drive_nil : drive G [] s = .next s := rfl

/-- A ready engine has no command in progress. -/
theorem drive_ready (h : s.ready = true) : drive G es s = .next s := by cases es <;> simp [drive, h]

/-- A busy engine takes one step at the first event. -/
theorem drive_cons {s' : State} (h : s.ready = false) (hs : engineStep G ev (s.setInputs rest) = .next s') :
    drive G (ev :: rest) s = drive G rest s' := by simp [drive, h, hs]

/-- A run over the events that answers a next state either stops at once or takes a first step and goes on. -/
theorem drive_cons_next (h : drive G (ev :: rest) s = .next t) :
    (s.ready = true ∧ t = s) ∨
      ∃ s', s.ready = false ∧ Took G ev (s.setInputs rest) s' ∧ drive G rest s' = .next t := by
  unfold drive at h
  split at h
  · exact .inl ⟨‹_›, by cases h; rfl⟩
  · split at h
    · exact .inr ⟨_, Bool.not_eq_true _ ▸ ‹¬s.ready = true›, engineStep_took ‹_›, h⟩
    all_goals cases h

/-- What every step of the engine keeps, and what does not depend on the events to come, a run over the events keeps. -/
theorem drive_invariant (P : State → Prop) (hin : ∀ s es, P s → P (s.setInputs es))
    (hstep : ∀ ev s t, P s → Took G ev s t → P t) :
    ∀ es s t, P s → drive G es s = .next t → P t := by
  intro es
  induction es with
  | nil => intro s t hs h; cases h; exact hs
  | cons ev rest ih =>
    intro s t hs h
    rcases drive_cons_next h with ⟨-, rfl⟩ | ⟨s', -, hs', h⟩
    · exact hs
    · exact ih s' t (hstep _ _ _ (hin s rest hs) hs') h

/-- At least as many ticks as the delay register holds bring it to 0 and change nothing else (40_core.md R168). -/
theorem drive_ticks (m : Nat) (hw : s.phase.waiting = true) (hm : s.dly.toNat ≤ m)
    (hi : s.inputs = List.replicate m .tick ++ rest) :
    drive G (List.replicate m .tick ++ rest) s = drive G rest { s with dly := 0, inputs := rest } := by
  induction m generalizing s with
  | zero =>
    have h0 : s.dly = 0 := by bv_omega
    obtain rfl : s.inputs = rest := by simpa using hi
    rw [List.replicate_zero, List.nil_append, ← h0]
  | succ m ih =>
    have hr : s.ready = false := by
      unfold State.ready; revert hw; cases s.phase <;> simp [Phase.ready, Phase.waiting]
    rw [List.replicate_succ, List.cons_append,
      drive_cons (s' := (s.setInputs (List.replicate m .tick ++ rest)).countTick) hr rfl]
    rw [ih (by simpa using hw) ?_ (by simp)]
    · simp
    · rw [State.countTick_dly]
      simp only [State.setInputs_phase, hw, State.setInputs_dly, Bool.true_and]
      split
      · rename_i hne
        have : s.dly ≠ 0 := by simpa using hne
        bv_omega
      · rename_i hz
        have : s.dly = 0 := by simpa using hz
        rw [this]; simp

end Sys2Proof.Machine
end

