-- ==== Sys2Proof/Laws/Run.lean ====
section
/-! SUPPORT. What the run of a command through the environment's events can do: the equations of `exec` and `step`, and one
lemma for each stretch of a run (the settled write, the reads, the hold with the decode). -/

namespace Sys2Proof.Machine

variable {G : Params} {s t : State} {c : CmdId} {e : CtEntry} {f : Frame} {es rest : List Input}

/-- Every meaning is the generic command with the command's own request (40_core.md R160). -/
theorem exec_eq (i : Instr) (s : State) : exec i s = runCommand defaultParams i.id i.arg0 i.arg1 i.arg2 s := by
  cases i <;> rfl

/-- The request of a command names it. -/
theorem commandOf_request (i : Instr) : commandOf i.id i.arg0 i.arg1 i.arg2 = some i := by cases i <;> rfl

/-- Every command has an entry in the default table, and its frame is the encoder's. -/
theorem lookup_id (i : Instr) :
    ∃ e, lookup commandTable i.id = some e ∧ encodeFrame e i.arg0 i.arg1 i.arg2 = encode i := by
  cases i <;> exact ⟨_, rfl, rfl⟩

/-- No entry beyond the last id. -/
theorem lookup_none (h : 45 ≤ c.toNat) : lookup commandTable c = none := by
  unfold lookup; simp; exact h

/-- No command beyond the last id. -/
theorem commandOf_none (a0 a1 a2 : Word) (h : 45 ≤ c.toNat) : commandOf c a0 a1 a2 = none := by
  unfold commandOf; split <;> first | omega | rfl

theorem exec_ready {i : Instr} (h : s.ready = true) :
    exec i s = drive defaultParams s.inputs (s.latch i.id i.arg0 i.arg1 i.arg2 (encode i)) := by
  obtain ⟨e, he, hf⟩ := lookup_id i
  simp [exec_eq, runCommand, h, takeRequest, he, hf]

theorem exec_busy {i : Instr} (h : s.ready = false) : exec i s = .next s := by
  simp [exec_eq, runCommand, h]

/-- Everything a step that answers a next state can do: nothing to do, a run of a requested command, one step of a ready
engine, or the further run of the command in progress. -/
theorem step_next (h : step s = .next t) :
    (s.ready = true ∧ s.inputs = [] ∧ t = s) ∨
    (∃ i ev rest, s.ready = true ∧ s.inputs = ev :: rest ∧ requested ev = some i ∧ exec i (s.setInputs rest) = .next t) ∨
    (∃ ev rest, s.ready = true ∧ s.inputs = ev :: rest ∧ requested ev = none ∧
      Took defaultParams ev (s.setInputs rest) t) ∨
    (s.ready = false ∧ drive defaultParams s.inputs s = .next t) := by
  unfold step stepWith at h
  split at h
  · rename_i hr
    split at h
    · cases h; exact .inl ⟨hr, ‹_›, rfl⟩
    · split at h
      · exact .inr (.inl ⟨_, _, _, hr, ‹_›, ‹_›, h⟩)
      · exact .inr (.inr (.inl ⟨_, _, hr, ‹_›, ‹_›, engineStep_took h⟩))
  · exact .inr (.inr (.inr ⟨Bool.not_eq_true _ ▸ ‹¬s.ready = true›, h⟩))

/-- What every step of the engine keeps, and what does not depend on the events to come, every step of the machine keeps. -/
theorem step_invariant (P : State → Prop) (hin : ∀ s es, P s → P (s.setInputs es))
    (hstep : ∀ ev s t, P s → Took defaultParams ev s t → P t) (hs : P s) (h : step s = .next t) : P t := by
  rcases step_next h with ⟨-, -, rfl⟩ | ⟨i, ev, rest, hr, -, -, h⟩ | ⟨ev, rest, -, -, -, h⟩ | ⟨-, h⟩
  · exact hs
  · obtain ⟨e, he, hf⟩ := lookup_id i
    rw [exec_ready (by simpa using hr)] at h
    refine drive_invariant P hin hstep _ _ _ ?_ h
    rw [← hf]
    exact hstep _ _ _ (hin s rest hs) (.accepted _ _ _ _ _ e (by simpa using hr) he)
  · exact hstep _ _ _ (hin s rest hs) h
  · exact drive_invariant P hin hstep _ _ _ hs h

/-- The constant settle delays of the default table are at most 600 ms, and the holds at most 100 ms. -/
theorem table_delays {c : CmdId} {e : CtEntry} (h : lookup commandTable c = some e) :
    (e.d1 = .mon ∨ ∃ d ≤ 600, e.d1 = .ms d) ∧ e.d2 ≤ 100 := by
  have key : ∀ c : CmdId, ∀ e ∈ lookup commandTable c,
      (match e.d1 with | .mon => true | .ms d => decide (d ≤ 600)) = true ∧ e.d2 ≤ 100 := by decide
  obtain ⟨h1, h2⟩ := key c e h
  refine ⟨?_, h2⟩
  cases hd : e.d1 with
  | mon => exact .inl rfl
  | ms d => exact .inr ⟨d, by simpa [hd] using h1, rfl⟩

/-- No settle wait of the default table is longer than the monitor mode's longest (10_state.md R36). -/
theorem settle_le {c : CmdId} {e : CtEntry} (h : lookup commandTable c = some e) (f : Frame) :
    settle e f ≤ 255051 := by
  have hf := f.p3.isLt
  rcases (table_delays h).1 with hd | ⟨d, hd, hd'⟩
  · simp only [settle, hd, ticks]; split <;> omega
  · simp only [settle, hd', ticks]; split <;> omega

/-- No hold of the default table is longer than 101 ticks. -/
theorem hold_le {c : CmdId} {e : CtEntry} (h : lookup commandTable c = some e) : ticks e.d2 ≤ 101 := by
  have := (table_delays h).2
  unfold ticks; split <;> omega

/-- An acknowledged frame write and at least the settle ticks bring a latched command to the end of WAIT1 (40_core.md R164,
R168). -/
theorem drive_settled {x : List Byte} {m : Nat} (hp : s.phase = .write) (hc : s.cmd = .holds c) (he : lookup G.table c = some e)
    (hf : s.frame = .holds f) (hm : settle e f ≤ m) (hb : settle e f < 2 ^ 32) :
    drive G (.answer (.ok x) :: (List.replicate m .tick ++ rest)) s =
      drive G rest (((s.note (.answered (.ok x))).loadDelay .wait1 0).setInputs rest) := by
  rw [drive_cons (s' := ((s.note (.answered (.ok x))).loadDelay .wait1 (settle e f)).setInputs
    (List.replicate m .tick ++ rest)) (by simp [State.ready, hp, Phase.ready]), drive_ticks m (by simp [Phase.waiting])
    (by
      simp only [State.setInputs_dly, State.loadDelay_dly, BitVec.toNat_ofNat, Nat.mod_eq_of_lt hb]; exact hm) (by simp)]
  · rfl
  · have h1 := withEntry_eq (s := s.setInputs (List.replicate m .tick ++ rest))
      (fun e => withFrame (s.setInputs (List.replicate m .tick ++ rest)) fun f =>
        .next (((s.setInputs (List.replicate m .tick ++ rest)).note (.answered (.ok x))).loadDelay .wait1 (settle e f)))
      hc he
    simp only [engineStep, takeAnswer, State.setInputs_phase, hp, answerWrite]
    rw [h1, withFrame_eq _ (by simpa using hf)]
    rfl

/-- A decode depends on RB, RESP, RCNT and ARG1 alone (40_core.md R180). -/
theorem decodePayload_congr {F : ThermFn} {x : Format} (h0 : s.rb = t.rb) (h1 : s.resp = t.resp) (h2 : s.rcnt = t.rcnt)
    (h3 : s.arg1 = t.arg1) : decodePayload F x s = decodePayload F x t := by
  have hb : decodeBlock F x s = decodeBlock F x t := by cases x <;> simp [decodeBlock, h0, h1, h3]
  have hs : s.short x = t.short x := by simp [State.short, h2]
  rw [decodePayload, decodePayload, hb, hs]

/-- At least the hold ticks, the exit of WAIT2 and the decode end a command whose reads are done (40_core.md R168, R170,
R176). -/
theorem drive_held {n : Nat} {v : Verdict} (hp : s.phase = .wait2) (hc : s.cmd = .holds c) (he : lookup G.table c = some e)
    (hn : s.dly.toNat ≤ n) (hi : s.inputs = List.replicate n .tick ++ .go :: .go :: rest)
    (hv : decodePayload G.thermFn e.fmt s = .ok v) :
    drive G (List.replicate n .tick ++ .go :: .go :: rest) s =
      .next (((s.loadDelay .decode 0).setInputs rest).finish v) := by
  rw [drive_ticks n (by simp [hp, Phase.waiting]) hn hi]
  rw [drive_cons (s' := (s.loadDelay .decode 0).setInputs (.go :: rest)) (by simp [State.ready, hp, Phase.ready]) (by simp [engineStep, takeGo, hp]; rfl)]
  rw [drive_cons (s' := ((s.loadDelay .decode 0).setInputs rest).finish v) rfl, drive_ready rfl]
  have hd : decodePayload G.thermFn e.fmt ((s.loadDelay .decode 0).setInputs rest) = .ok v :=
    (decodePayload_congr (t := s) rfl rfl rfl rfl).trans hv
  refine Eq.trans (withEntry_eq (s := (s.loadDelay .decode 0).setInputs rest) _ hc he) ?_
  simp only [setInputs_setInputs, hd]

/-- The exit from WAIT1 ends a write-only command (40_core.md R169). -/
theorem drive_ended (hp : s.phase = .wait1) (hd : s.dly = 0) (hc : s.cmd = .holds c) (he : lookup G.table c = some e)
    (hk : e.rk = .none) : drive G (.go :: rest) s = .next ((s.setInputs rest).finish (.ok .none)) := by
  rw [drive_cons (s' := (s.setInputs rest).finish (.ok .none)) (by simp [State.ready, hp, Phase.ready]), drive_ready rfl]
  simp only [engineStep, takeGo, State.setInputs_phase, hp, State.setInputs_dly, hd, if_true, exitWait1]
  exact (withEntry_eq (s := s.setInputs rest) _ hc he).trans (by simp [hk])

/-- The exit from WAIT1 presents a one-byte read (40_core.md R169). -/
theorem drive_toByte (hp : s.phase = .wait1) (hd : s.dly = 0) (hc : s.cmd = .holds c) (he : lookup G.table c = some e)
    (hk : e.rk = .byte ∨ (e.rk = .block ∧ e.disc = true)) :
    drive G (.go :: rest) s = drive G rest ((s.setInputs rest).issueByte) := by
  rw [drive_cons (by simp [State.ready, hp, Phase.ready])]
  simp only [engineStep, takeGo, State.setInputs_phase, hp, State.setInputs_dly, hd, if_true, exitWait1]
  refine (withEntry_eq (s := s.setInputs rest) _ hc he).trans ?_
  rcases hk with hk | ⟨hk, hx⟩ <;> simp [*]

/-- The exit from WAIT1 presents the block read (40_core.md R169). -/
theorem drive_toBlock (hp : s.phase = .wait1) (hd : s.dly = 0) (hc : s.cmd = .holds c) (he : lookup G.table c = some e)
    (hk : e.rk = .block) (hx : e.disc = false) :
    drive G (.go :: rest) s = drive G rest ((s.setInputs rest).issueBlock e) := by
  rw [drive_cons (by simp [State.ready, hp, Phase.ready])]
  simp only [engineStep, takeGo, State.setInputs_phase, hp, State.setInputs_dly, hd, if_true, exitWait1]
  exact (withEntry_eq (s := s.setInputs rest) _ hc he).trans (by simp [hk, hx])

/-- A failed operation ends the command (40_core.md R165, R172, R175). -/
theorem drive_failed {d : Diag} (hp : s.phase.onBus = true) :
    drive G (.answer (.fail d) :: rest) s =
      .next (((s.setInputs rest).note (.answered (.fail d))).takeBusError d) := by
  rw [drive_cons (s' := ((s.setInputs rest).note (.answered (.fail d))).takeBusError d), drive_ready rfl]
  · unfold State.ready; revert hp; cases s.phase <;> simp [Phase.onBus, Phase.ready]
  · revert hp
    cases hq : s.phase <;>
      simp [Phase.onBus, engineStep, takeAnswer, hq, answerWrite, answerByte, answerBlock]

/-- The command's own byte starts the hold (40_core.md R170, R171). -/
theorem drive_readByte {b : Byte} {x : List Byte} (hp : s.phase = .rdByte) (hc : s.cmd = .holds c)
    (he : lookup G.table c = some e) (hk : e.rk = .byte) :
    drive G (.answer (.ok (b :: x)) :: rest) s =
      drive G rest ((((s.setInputs rest).note (.answered (.ok (b :: x)))).setRb b).beginHold e) := by
  rw [drive_cons (by simp [State.ready, hp, Phase.ready])]
  simp only [engineStep, takeAnswer, State.setInputs_phase, hp, answerByte]
  exact (withEntry_eq (s := s.setInputs rest) _ hc he).trans (by simp [hk])

/-- The discarded byte starts the block read (40_core.md R171). -/
theorem drive_discarded {b : Byte} {x : List Byte} (hp : s.phase = .rdByte) (hc : s.cmd = .holds c)
    (he : lookup G.table c = some e) (hk : e.rk = .block) :
    drive G (.answer (.ok (b :: x)) :: rest) s =
      drive G rest ((((s.setInputs rest).note (.answered (.ok (b :: x)))).setRb b).issueBlock e) := by
  rw [drive_cons (by simp [State.ready, hp, Phase.ready])]
  simp only [engineStep, takeAnswer, State.setInputs_phase, hp, answerByte]
  exact (withEntry_eq (s := s.setInputs rest) _ hc he).trans (by simp [hk])

/-- The delivered block starts the hold (40_core.md R170, R174). -/
theorem drive_readBlock {x : List Byte} (hp : s.phase = .rdBlk) (hc : s.cmd = .holds c) (he : lookup G.table c = some e)
    (hl : x.length ≤ e.rlen.toNat) :
    drive G (.answer (.ok x) :: rest) s =
      drive G rest ((((s.setInputs rest).note (.answered (.ok x))).setResp x).beginHold e) := by
  rw [drive_cons (by simp [State.ready, hp, Phase.ready])]
  simp only [engineStep, takeAnswer, State.setInputs_phase, hp, answerBlock]
  exact (withEntry_eq (s := s.setInputs rest) _ hc he).trans (by simp [hl])

end Sys2Proof.Machine
end

