-- ==== Sys2Proof/Laws/Build.lean ====
section
/-! SUPPORT. What a build can do: the machine of a legal table is bound to the build's parameters, and the default build's commands are the
model's own. -/

namespace Sys2Proof.Machine

variable {G : Params} {T : CommandTable} {s : State} {c : CmdId} {e : CtEntry}

/-- The check of one entry, as the constraints of 10_state.md R59. -/
theorem entryOk_iff :
    entryOk e = true ↔
      e.rlen.toNat ≤ Config.respCap ∧ (e.rk = .none → e.fmt = .none ∧ e.d2 = 0) ∧ (e.rk = .byte → e.fmt = .byte) ∧
        (e.raddr = .alt → e.rk = .block) := by
  simp only [entryOk, Bool.and_eq_true, Bool.or_eq_true, bne_iff_ne, beq_iff_eq, decide_eq_true_eq, and_assoc, imp_iff_not_or]

/-- The default build gives every command its own meaning (30_encoding.md R120). -/
theorem execWith_default : execWith defaultParams = exec := by
  funext i s; exact (exec_eq i s).symm

/-- A build has a machine exactly when its table passes the check (10_state.md R59). -/
theorem build_isSome (G : Params) : (build G).isSome = tableOk G.table := by
  unfold build configure; split <;> simp_all

/-- What a build gives is the machine of its parameters. -/
theorem build_eq (h : tableOk G.table = true) : build G = some (machineOf G) := by simp [build, configure, h]

/-- A legal table has an entry for the ids up to 44 and for no other (10_state.md R49, R59). -/
theorem lookup_isSome (h : tableOk T = true) : (lookup T c).isSome = true ↔ c.toNat < 45 := by
  have hl : T.length = 45 := by simp [tableOk, Config.nCmd] at h; exact h.1.1
  simp [lookup, hl]

/-- A ready engine accepts a command of the table and runs it through the events to come. -/
theorem execWith_ready {i : Instr} (h : s.ready = true) (he : lookup G.table i.id = some e) :
    execWith G i s =
      drive G s.inputs (s.latch i.id i.arg0 i.arg1 i.arg2 (encodeFrame e i.arg0 i.arg1 i.arg2)) := by
  simp [execWith, runCommand, h, takeRequest, he]

end Sys2Proof.Machine
end

