-- ==== Sys2Proof/Laws/Encoding.lean ====
section
/-! SUPPORT. The bytes of an argument and the words read back from bytes (30_encoding.md R113 to R115). -/

namespace Sys2Proof

open Sys2Proof.Machine

/-- A byte after a bit vector is worth its value beside 256 times the vector's. -/
theorem toNat_append_byte {n : Nat} (x : BitVec n) (y : Byte) : (x ++ y).toNat = x.toNat * 256 + y.toNat := by
  rw [BitVec.toNat_append, ← Nat.shiftLeft_add_eq_or_of_lt y.isLt, Nat.shiftLeft_eq]

theorem widen_lo8 {a : Word} (h : fitsByte a = true) : widen (lo8 a) = a := by
  simp only [fitsByte, decide_eq_true_eq] at h
  apply BitVec.eq_of_toNat_eq
  simp [widen, lo8]; omega

theorem widen_modeBit {a : Word} (h : isMode a = true) : widen (modeBit a) = a ∧ (modeBit a).toNat < 2 := by
  simp only [isMode, decide_eq_true_eq] at h
  constructor
  · apply BitVec.eq_of_toNat_eq
    simp [widen, modeBit]; omega
  · simp [modeBit]; omega

theorem widen16_lo8_hi8 {a : Word} (h : fitsPair a = true) : widen16 (lo8 a) (hi8 a) = a := by
  simp only [fitsPair, decide_eq_true_eq] at h
  apply BitVec.eq_of_toNat_eq
  simp only [widen16, BitVec.toNat_setWidth, toNat_append_byte]
  simp [lo8, hi8, Nat.shiftRight_eq_div_pow]; omega

theorem isAbsent_eq {a : Word} (h : isAbsent a = true) : a = 0 := by simpa [isAbsent] using h

theorem lo8_widen (b : Byte) : lo8 (widen b) = b ∧ fitsByte (widen b) = true := by
  revert b; decide

theorem modeBit_widen (b : Byte) : b.toNat < 2 → modeBit (widen b) = b ∧ isMode (widen b) = true := by
  revert b; decide

theorem lo8_hi8_widen16 (b c : Byte) :
    lo8 (widen16 b c) = b ∧ hi8 (widen16 b c) = c ∧ fitsPair (widen16 b c) = true := by
  refine ⟨?_, ?_, ?_⟩
  · apply BitVec.eq_of_toNat_eq
    simp only [widen16, lo8, BitVec.extractLsb'_toNat, BitVec.toNat_setWidth, toNat_append_byte, Nat.shiftRight_zero]
    omega
  · apply BitVec.eq_of_toNat_eq
    simp only [widen16, hi8, BitVec.extractLsb'_toNat, BitVec.toNat_setWidth, toNat_append_byte,
      Nat.shiftRight_eq_div_pow]
    omega
  · simp only [fitsPair, widen16, BitVec.toNat_setWidth, toNat_append_byte, decide_eq_true_eq]; omega

end Sys2Proof
end

