-- ==== Sys2Proof/Laws/Payload.lean ====
section
/-! SUPPORT. What the response decoders can answer: a value within the ranges of its format, and no fault where the registers
they read are written. -/

namespace Sys2Proof.Machine

variable {F : ThermFn} {s : State} {x : Format} {r : Result}

/-- The range of the fold (40_core.md R185). -/
theorem fold_range (b : Byte) : -191 ≤ fold b ∧ fold b ≤ 32 := by
  have := b.isLt
  unfold fold; split <;> omega

/-- A little-endian value is below 256 to the number of its bytes (40_core.md R192). -/
theorem le_lt (bs : List Byte) : le bs < 256 ^ bs.length := by
  induction bs with
  | nil => simp [le]
  | cons b bs ih =>
    have := b.isLt
    simp only [le, List.length_cons, pow_succ]; omega

/-- A sentinel format answers "no data" or a header other than 255 with a value below 2^24 (40_core.md R193). -/
theorem decodeSent_ok {n : Nat} {resp : List Byte} {v : Verdict} (hn : n ≤ 4) (h : decodeSent n resp = .ok v) :
    v = .noData ∨ ∃ hd w, v = .ok (.sent hd w) ∧ hd ≠ 255 ∧ w < 2 ^ 24 := by
  unfold decodeSent at h
  split at h
  · cases h
  · split at h
    · split at h <;> cases h
      · exact .inl rfl
      · rename_i rest _ hs
        refine .inr ⟨_, _, rfl, by simpa [isSentinel] using hs, ?_⟩
        have h1 := le_lt (rest.take (n - 1))
        have h2 : 256 ^ (rest.take (n - 1)).length ≤ 256 ^ 3 :=
          Nat.pow_le_pow_right (by norm_num) (by rw [List.length_take]; omega)
        omega
    · cases h

/-- Every decoded value is within the ranges of its format (10_state.md R41). -/
theorem decodePayload_inRange (h : decodePayload F x s = .ok (.ok r)) : r.inRange := by
  unfold decodePayload at h
  split at h
  · cases h
  · cases x <;> simp only [decodeBlock] at h
    case none => cases h; trivial
    case byte => unfold decodeByte at h; split at h <;> cases h; trivial
    case u16be => unfold decodeU16be at h; split at h <;> cases h; trivial
    case u16le => unfold decodeU16le at h; split at h <;> cases h; trivial
    case acc3 =>
      unfold decodeAcc3 at h; split at h <;> cases h
      exact ⟨fold_range _, fold_range _, fold_range _⟩
    case dht =>
      unfold decodeDht at h
      split at h
      · split at h <;> cases h; trivial
      · cases h
    case therm =>
      unfold decodeTherm thermValue at h
      split at h
      · split at h
        · split at h
          · cases h
          · split at h <;> cases h
            simpa [Result.inRange] using ‹¬isNaN64 _ = true›
        · cases h
      · cases h
    case ver => unfold decodeVer at h; split at h <;> cases h; trivial
    case raw => unfold decodeRaw at h; split at h <;> cases h; exact .inl rfl
    case ir =>
      unfold decodeIr at h
      split at h
      · cases h
      · split at h <;> cases h
        exact .inr (by rw [List.length_take]; omega)
    all_goals
      rcases decodeSent_ok (by omega) h with h | ⟨_, _, h, h1, h2⟩ <;> cases h
      exact ⟨h1, h2⟩

/-- A decode faults only on a register that holds no value: ARG1, or RB for the byte format; never on RESP, since a short block is
answered before a byte of it is read (40_core.md R187; 60_exceptions.md R356). -/
theorem decodePayload_ok (hr : s.rcnt.toNat = s.resp.length) (ha : s.arg1 ≠ .unwritten)
    (hb : x = .byte → s.rb ≠ .unwritten) : ∃ v, decodePayload F x s = .ok v := by
  unfold decodePayload
  split
  · exact ⟨_, rfl⟩
  · rename_i hs
    simp only [State.short, decide_eq_true_eq, not_lt, hr] at hs
    have hl : s.resp = s.resp.take (bytesNeeded x) ++ s.resp.drop (bytesNeeded x) := by simp
    have hn : (s.resp.take (bytesNeeded x)).length = bytesNeeded x := by simpa using hs
    generalize s.resp.take (bytesNeeded x) = l at hl hn
    cases x <;> simp only [bytesNeeded] at hn hs <;> simp only [decodeBlock]
    case none => exact ⟨_, rfl⟩
    case byte =>
      cases hrb : s.rb with
      | unwritten => exact absurd hrb (hb rfl)
      | holds b => exact ⟨_, rfl⟩
    case u16be => match l, hn with | [_, _, _], _ => rw [hl]; exact ⟨_, rfl⟩
    case u16le => match l, hn with | [_, _, _], _ => rw [hl]; exact ⟨_, rfl⟩
    case acc3 => match l, hn with | [_, _, _, _], _ => rw [hl]; exact ⟨_, rfl⟩
    case dht =>
      match l, hn with
      | [_, _, _, _, _, _, _, _, _], _ => rw [hl]; simp only [decodeDht, List.cons_append]; split <;> exact ⟨_, rfl⟩
    case therm =>
      match l, hn with
      | [_, _, _], _ =>
        rw [hl]
        cases h1 : s.arg1 with
        | unwritten => exact absurd h1 ha
        | holds b => exact ⟨_, rfl⟩
    case ver => match l, hn with | [_, _, _, _], _ => rw [hl]; exact ⟨_, rfl⟩
    case raw => match l, hn with | [_, _, _, _, _], _ => rw [hl]; exact ⟨_, rfl⟩
    case ir => unfold decodeIr; rw [if_neg (by omega)]; split <;> exact ⟨_, rfl⟩
    all_goals
      unfold decodeSent; rw [if_neg (by omega)]
      cases hq : s.resp with
      | nil => rw [hq] at hs; simp at hs
      | cons a b => simp only; split <;> exact ⟨_, rfl⟩

end Sys2Proof.Machine
end

