-- ==== Sys2Proof/Laws/PerInstr.lean ====
section
/-! SUPPORT. Laws stated for every command, one lemma per constructor. `EncodeFollowsTable`: the frame that `encode`
writes out from the encodings of spec/opcode_table.json is the frame that the encoder of 30_encoding.md R112 builds from
the command table, and the request of a command names it back (30_encoding.md R110, R118). -/

namespace Sys2Proof.Laws.EncodeFollowsTable

open Sys2Proof.Machine

/-- The two spellings of the encoding agree on the command `i`, and `i` is the command its request names. -/
def Statement (i : Instr) : Prop :=
  (lookup commandTable i.id).map (fun e => encodeFrame e i.arg0 i.arg1 i.arg2) = some (encode i) ∧
    commandOf i.id i.arg0 i.arg1 i.arg2 = some i

theorem digitalRead (a0 a1 a2 : Word) : Statement (.digitalRead a0 a1 a2) := ⟨rfl, rfl⟩
theorem digitalWrite (a0 a1 a2 : Word) : Statement (.digitalWrite a0 a1 a2) := ⟨rfl, rfl⟩
theorem analogRead (a0 a1 a2 : Word) : Statement (.analogRead a0 a1 a2) := ⟨rfl, rfl⟩
theorem analogWrite (a0 a1 a2 : Word) : Statement (.analogWrite a0 a1 a2) := ⟨rfl, rfl⟩
theorem pinMode (a0 a1 a2 : Word) : Statement (.pinMode a0 a1 a2) := ⟨rfl, rfl⟩
theorem thermRead (a0 a1 a2 : Word) : Statement (.thermRead a0 a1 a2) := ⟨rfl, rfl⟩
theorem ultrasonicRead (a0 a1 a2 : Word) : Statement (.ultrasonicRead a0 a1 a2) := ⟨rfl, rfl⟩
theorem version (a0 a1 a2 : Word) : Statement (.version a0 a1 a2) := ⟨rfl, rfl⟩
theorem accXyz (a0 a1 a2 : Word) : Statement (.accXyz a0 a1 a2) := ⟨rfl, rfl⟩
theorem rtcGetTime (a0 a1 a2 : Word) : Statement (.rtcGetTime a0 a1 a2) := ⟨rfl, rfl⟩
theorem dhtRead (a0 a1 a2 : Word) : Statement (.dhtRead a0 a1 a2) := ⟨rfl, rfl⟩
theorem ledbarInit (a0 a1 a2 : Word) : Statement (.ledbarInit a0 a1 a2) := ⟨rfl, rfl⟩
theorem ledbarOrient (a0 a1 a2 : Word) : Statement (.ledbarOrient a0 a1 a2) := ⟨rfl, rfl⟩
theorem ledbarLevel (a0 a1 a2 : Word) : Statement (.ledbarLevel a0 a1 a2) := ⟨rfl, rfl⟩
theorem ledbarSetOne (a0 a1 a2 : Word) : Statement (.ledbarSetOne a0 a1 a2) := ⟨rfl, rfl⟩
theorem ledbarToggleOne (a0 a1 a2 : Word) : Statement (.ledbarToggleOne a0 a1 a2) := ⟨rfl, rfl⟩
theorem ledbarSet (a0 a1 a2 : Word) : Statement (.ledbarSet a0 a1 a2) := ⟨rfl, rfl⟩
theorem ledbarGet (a0 a1 a2 : Word) : Statement (.ledbarGet a0 a1 a2) := ⟨rfl, rfl⟩
theorem fdInit (a0 a1 a2 : Word) : Statement (.fdInit a0 a1 a2) := ⟨rfl, rfl⟩
theorem fdBrightness (a0 a1 a2 : Word) : Statement (.fdBrightness a0 a1 a2) := ⟨rfl, rfl⟩
theorem fdValue (a0 a1 a2 : Word) : Statement (.fdValue a0 a1 a2) := ⟨rfl, rfl⟩
theorem fdValueZeros (a0 a1 a2 : Word) : Statement (.fdValueZeros a0 a1 a2) := ⟨rfl, rfl⟩
theorem fdDigit (a0 a1 a2 : Word) : Statement (.fdDigit a0 a1 a2) := ⟨rfl, rfl⟩
theorem fdSegment (a0 a1 a2 : Word) : Statement (.fdSegment a0 a1 a2) := ⟨rfl, rfl⟩
theorem fdScore (a0 a1 a2 : Word) : Statement (.fdScore a0 a1 a2) := ⟨rfl, rfl⟩
theorem fdMonitor (a0 a1 a2 : Word) : Statement (.fdMonitor a0 a1 a2) := ⟨rfl, rfl⟩
theorem fdAllOn (a0 a1 a2 : Word) : Statement (.fdAllOn a0 a1 a2) := ⟨rfl, rfl⟩
theorem fdAllOff (a0 a1 a2 : Word) : Statement (.fdAllOff a0 a1 a2) := ⟨rfl, rfl⟩
theorem rgbStoreColor (a0 a1 a2 : Word) : Statement (.rgbStoreColor a0 a1 a2) := ⟨rfl, rfl⟩
theorem rgbInit (a0 a1 a2 : Word) : Statement (.rgbInit a0 a1 a2) := ⟨rfl, rfl⟩
theorem rgbTest (a0 a1 a2 : Word) : Statement (.rgbTest a0 a1 a2) := ⟨rfl, rfl⟩
theorem rgbPattern (a0 a1 a2 : Word) : Statement (.rgbPattern a0 a1 a2) := ⟨rfl, rfl⟩
theorem rgbModulo (a0 a1 a2 : Word) : Statement (.rgbModulo a0 a1 a2) := ⟨rfl, rfl⟩
theorem rgbLevel (a0 a1 a2 : Word) : Statement (.rgbLevel a0 a1 a2) := ⟨rfl, rfl⟩
theorem irRead (a0 a1 a2 : Word) : Statement (.irRead a0 a1 a2) := ⟨rfl, rfl⟩
theorem irRecvPin (a0 a1 a2 : Word) : Statement (.irRecvPin a0 a1 a2) := ⟨rfl, rfl⟩
theorem dustRead (a0 a1 a2 : Word) : Statement (.dustRead a0 a1 a2) := ⟨rfl, rfl⟩
theorem dustEn (a0 a1 a2 : Word) : Statement (.dustEn a0 a1 a2) := ⟨rfl, rfl⟩
theorem dustDis (a0 a1 a2 : Word) : Statement (.dustDis a0 a1 a2) := ⟨rfl, rfl⟩
theorem encRead (a0 a1 a2 : Word) : Statement (.encRead a0 a1 a2) := ⟨rfl, rfl⟩
theorem encEn (a0 a1 a2 : Word) : Statement (.encEn a0 a1 a2) := ⟨rfl, rfl⟩
theorem encDis (a0 a1 a2 : Word) : Statement (.encDis a0 a1 a2) := ⟨rfl, rfl⟩
theorem flowRead (a0 a1 a2 : Word) : Statement (.flowRead a0 a1 a2) := ⟨rfl, rfl⟩
theorem flowEn (a0 a1 a2 : Word) : Statement (.flowEn a0 a1 a2) := ⟨rfl, rfl⟩
theorem flowDis (a0 a1 a2 : Word) : Statement (.flowDis a0 a1 a2) := ⟨rfl, rfl⟩

end Sys2Proof.Laws.EncodeFollowsTable
end

