-- ==== Sys2Proof/Laws/Ports.lean ====
section
/-! SUPPORT. What the caller's reads of an outcome answer (10_state.md R40 to R42, R60). -/

namespace Sys2Proof.Machine

variable {s : State}

/-- A status is read exactly in DONE, from the register (10_state.md R40). -/
theorem readStatus_eq_ok {st : Status} : s.readStatus = .ok st ↔ s.phase = .done ∧ s.status = .holds st := by
  unfold State.readStatus; split <;> simp_all

/-- A result is read exactly in DONE with `OK`, from the register (10_state.md R41). -/
theorem readResult_eq_ok {r : Result} :
    s.readResult = .ok r ↔ s.phase = .done ∧ s.status = .holds .ok ∧ s.result = .holds r := by
  unfold State.readResult; split <;> simp_all

/-- A diagnostic is read exactly in DONE with `BUS_ERROR`, from the register (10_state.md R42). -/
theorem readDiag_eq_ok {d : Diag} :
    s.readDiag = .ok d ↔ s.phase = .done ∧ s.status = .holds .busError ∧ s.diag = .holds d := by
  unfold State.readDiag; split <;> simp_all

end Sys2Proof.Machine
end

