-- ==== Sys2Proof/Laws/Thermistor.lean ====
section
/-! SUPPORT. How close the binary64 evaluation of the reference conversion (41_gpio.md R226) stays to the formula over the real
numbers, one lemma for each stretch of the formula up to its denominator. -/

namespace Sys2Proof.Machine

/-- The B-coefficients are at least 3975 and at most 4250. -/
theorem bValue_range (b : BCoeff) : 3975 ≤ bValue b ∧ bValue b ≤ 4250 := by cases b <;> simp [bValue]

/-- On the valid domain R / 10000 is (1023 - a) / a, between 1 / 1022 and 1022. -/
theorem ratio_range (a : Nat) (h1 : 1 ≤ a) (h2 : a ≤ 1022) :
    thermResistance a / 10000 = ((1023 - a : ℕ) : ℝ) / a ∧ (1 : ℝ) / 1022 ≤ ((1023 - a : ℕ) : ℝ) / a ∧
    ((1023 - a : ℕ) : ℝ) / a ≤ 1022 := by
  have ha : (1 : ℝ) ≤ a := by exact_mod_cast h1
  have ha' : (a : ℝ) ≤ 1022 := by exact_mod_cast h2
  have e : ((1023 - a : ℕ) : ℝ) = 1023 - a := by push_cast [Nat.cast_sub (by omega : a ≤ 1023)]; ring
  rw [e]
  refine ⟨by unfold thermResistance; field_simp, ?_, ?_⟩
  · rw [div_le_div_iff₀ (by norm_num) (by linarith)]; linarith
  · rw [div_le_iff₀ (by linarith)]; linarith

/-- On the valid domain the logarithm is at most 7 in magnitude. -/
theorem abs_log_le {x : ℝ} (h1 : 1 / 1022 ≤ x) (h2 : x ≤ 1022) : |Real.log x| ≤ 7 := by
  have hx : 0 < x := lt_of_lt_of_le (by norm_num) h1
  have hl : Real.log 1024 ≤ 7 := by
    rw [show (1024 : ℝ) = 2 ^ 10 by norm_num, Real.log_pow]
    have := Real.log_two_lt_d9; push_cast; linarith
  have h3 : Real.log x ≤ Real.log 1024 := Real.log_le_log hx (by linarith)
  have h4 : Real.log (1 / 1024) ≤ Real.log x := Real.log_le_log (by norm_num) (by linarith)
  rw [one_div, Real.log_inv] at h4
  rw [abs_le]; constructor <;> linarith

/-- A small relative difference is a small difference of the logarithms. -/
theorem log_close {x y e : ℝ} (hy : 0 < y) (h : |x - y| ≤ e * y) (he : e ≤ 1 / 4) : |Real.log x - Real.log y| ≤ 2 * e ∧ 0 < x := by
  have h1 := abs_le.1 h
  have hx : 0 < x := by nlinarith
  refine ⟨?_, hx⟩
  rw [← Real.log_div hx.ne' hy.ne', abs_le]
  have hr : |x / y - 1| ≤ e := by
    rw [div_sub_one hy.ne', abs_div, abs_of_pos hy, div_le_iff₀ hy]; exact h
  have h2 := abs_le.1 hr
  have hp : 0 < x / y := by positivity
  have h3 := Real.log_le_sub_one_of_pos hp
  have h4 := Real.one_sub_inv_le_log_of_pos hp
  have he0 : 0 ≤ e := le_trans (abs_nonneg _) hr
  refine ⟨?_, by linarith⟩
  refine le_trans ?_ h4
  have : (x / y)⁻¹ ≤ 1 + 2 * e := by
    rw [inv_le_iff_one_le_mul₀ hp]; nlinarith
  linarith

/-- The binary64 logarithm of R / 10000 is within 2^-48 of the real one. -/
theorem ln_ratio_close (a : Nat) (h1 : 1 ≤ a) (h2 : a ≤ 1022) :
    ∃ L, (ln64 (div64 (resistance64 a) (literal64 10000 1))).HasValue L ∧
      |L - Real.log (((1023 - a : ℕ) : ℝ) / a)| ≤ 1 / 2 ^ 48 := by
  obtain ⟨hr, hlo, hhi⟩ := ratio_range a h1 h2
  generalize hρ : ((1023 - a : ℕ) : ℝ) / a = ρ at *
  have hρ0 : 0 < ρ := lt_of_lt_of_le (by norm_num) hlo
  have hlog := abs_log_le hlo hhi
  have ha : (1 : ℝ) ≤ a := by exact_mod_cast h1
  have c1 := literal64_exact (i := 1023) (by norm_num)
  have c2 := literal64_exact (i := a) (by omega)
  have c3 := literal64_exact (i := 10000) (by norm_num)
  have d := sub64_exact c1 c2 (i := 1023 - a) (by omega) (by omega)
  have m := mul64_exact d c3 (by omega)
  have hR : ((((1023 - a) * 10000 : ℕ) : ℝ)) / a = ρ * 10000 := by rw [← hρ]; push_cast; ring
  obtain ⟨R, hR1, hR2⟩ := div64_close m c2 (by positivity) (by rw [hR, abs_of_pos (by positivity)]; norm_num; linarith)
  rw [hR, abs_of_pos (a := ρ * 10000) (by positivity)] at hR2
  have hRa := abs_le.1 hR2
  obtain ⟨X, hX1, hX2⟩ := div64_close hR1 c3 (by norm_num) (by
    rw [abs_div, abs_of_pos (by norm_num : (0:ℝ) < (10000:ℕ)), div_le_iff₀ (by norm_num)]
    have : |R| ≤ 2 * (ρ * 10000) := by rw [abs_le]; norm_num at hRa ⊢; constructor <;> linarith
    norm_num at this ⊢; linarith)
  have hXρ : |X - ρ| ≤ 1 / 2 ^ 51 * ρ := by
    have hRp : |R / (10000 : ℕ)| ≤ 2 * ρ := by
      rw [abs_le]; norm_num at hRa ⊢; constructor <;> linarith
    have e1 : |R / (10000 : ℕ) - ρ| ≤ ρ / 2 ^ 53 + 1 / 2 ^ 200 := by
      rw [show R / (10000 : ℕ) - ρ = (R - ρ * 10000) / 10000 by push_cast; ring, abs_div, abs_of_pos (by norm_num : (0:ℝ) < 10000),
        div_le_iff₀ (by norm_num)]
      norm_num at hR2 ⊢; linarith
    have hRq := abs_sub_abs_le_abs_sub (R / (10000 : ℕ)) ρ
    rw [abs_of_pos hρ0] at hRq
    have := abs_sub_le X (R / (10000 : ℕ)) ρ
    norm_num at *; linarith
  obtain ⟨hlX, hX0⟩ := log_close hρ0 hXρ (by norm_num)
  have hlX' : |Real.log X| ≤ 8 := by
    have := abs_sub_abs_le_abs_sub (Real.log X) (Real.log ρ); norm_num at hlX; linarith
  obtain ⟨L, hL1, hL2⟩ := ln64_close hX1 hX0 (hlX'.trans (by norm_num))
  have hLρ : |L - Real.log ρ| ≤ 1 / 2 ^ 48 := by
    have := abs_sub_le L (Real.log X) (Real.log ρ); norm_num at *; linarith
  exact ⟨L, hL1, hLρ⟩

/-- The binary64 quotient 1 / 298.15 is within 2^-58 of the real one. -/
theorem recip29815_close : ∃ C, (div64 (literal64 1 1) (literal64 29815 100)).HasValue C ∧ |C - 1 / 298.15| ≤ 1 / 2 ^ 58 := by
  obtain ⟨k, hk1, hk2⟩ := literal64_close (num := 29815) (den := 100) (by norm_num) (by norm_num)
  have hk := abs_le.1 hk2
  have hkl : 298 ≤ k := by norm_num at hk; linarith
  have c4 := literal64_exact (i := 1) (by norm_num)
  have hk0 : (0 : ℝ) < k := by linarith
  have hki : 1 / k ≤ 1 / 298 := one_div_le_one_div_of_le (by norm_num) hkl
  obtain ⟨C, hC1, hC2⟩ := div64_close c4 hk1 hk0.ne' (by
    rw [Nat.cast_one, abs_of_pos (by positivity)]; refine hki.trans (by norm_num))
  have hC : |C - 1 / 298.15| ≤ 1 / 2 ^ 58 := by
    rw [Nat.cast_one, abs_of_pos (a := 1 / k) (by positivity)] at hC2
    have e1 : |1 / k - 1 / 298.15| ≤ 1 / 2 ^ 59 := by
      rw [div_sub_div _ _ hk0.ne' (by norm_num), abs_div, abs_of_pos (a := k * 298.15) (by positivity), div_le_iff₀ (by positivity), abs_le]
      norm_num at hk ⊢; constructor <;> nlinarith
    have := abs_sub_le C (1 / k) (1 / 298.15)
    norm_num at *; linarith
  exact ⟨C, hC1, hC⟩

/-- The binary64 denominator is within 2^-52 of the real one, which is at least 0.0015. -/
theorem denominator64_close (a : Nat) (b : BCoeff) (h1 : 1 ≤ a) (h2 : a ≤ 1022) :
    0.0015 ≤ thermDenominator a b ∧ ∃ D, (denominator64 a b).HasValue D ∧ |D - thermDenominator a b| ≤ 1 / 2 ^ 52 := by
  obtain ⟨L, hL1, hLρ⟩ := ln_ratio_close a h1 h2
  obtain ⟨C, hC1, hC⟩ := recip29815_close
  obtain ⟨hr, hlo, hhi⟩ := ratio_range a h1 h2
  generalize hρ : ((1023 - a : ℕ) : ℝ) / a = ρ at *
  have hlog := abs_log_le hlo hhi
  obtain ⟨hB1, hB2⟩ := bValue_range b
  have hB : (3975 : ℝ) ≤ bValue b := by exact_mod_cast hB1
  have cB := literal64_exact (i := bValue b) (by omega)
  have hLa := abs_le.1 hLρ
  have hLb : |L| ≤ 8 := by
    have := abs_sub_abs_le_abs_sub L (Real.log ρ); norm_num at hLρ; linarith
  have hB0 : (0 : ℝ) < bValue b := by linarith
  have hLB : |L / bValue b| ≤ 1 / 256 := by
    rw [abs_div, abs_of_pos hB0, div_le_iff₀ hB0]; linarith
  obtain ⟨Q, hQ1, hQ2⟩ := div64_close hL1 cB hB0.ne' (hLB.trans (by norm_num))
  have hQ : |Q - Real.log ρ / bValue b| ≤ 1 / 2 ^ 58 := by
    have e1 : |L / bValue b - Real.log ρ / bValue b| ≤ 1 / 2 ^ 48 / 3975 := by
      rw [← sub_div, abs_div, abs_of_pos hB0]
      exact div_le_div₀ (by norm_num) hLρ (by norm_num) hB
    have := abs_sub_le Q (L / bValue b) (Real.log ρ / bValue b)
    norm_num at *; linarith
  have hρB : |Real.log ρ / bValue b| ≤ 7 / 3975 := by
    rw [abs_div, abs_of_pos hB0]; exact div_le_div₀ (by norm_num) hlog (by norm_num) hB
  have hD0 : thermDenominator a b = Real.log ρ / bValue b + 1 / 298.15 := by unfold thermDenominator; rw [hr]
  generalize thermDenominator a b = D0 at *
  have hρB' := abs_le.1 hρB
  have hD0l : 0.0015 ≤ D0 := by rw [hD0]; norm_num at *; linarith
  have hD0u : D0 ≤ 0.006 := by rw [hD0]; norm_num at *; linarith
  have hQC : |Q + C - D0| ≤ 1 / 2 ^ 57 := by
    rw [hD0, show Q + C - (Real.log ρ / bValue b + 1 / 298.15) = (Q - Real.log ρ / bValue b) + (C - 1 / 298.15) by ring]
    refine (abs_add_le _ _).trans ?_
    norm_num at *; linarith
  have hQCb : |Q + C| ≤ 1 := by
    have := abs_le.1 hQC; rw [abs_le]; norm_num at *; constructor <;> linarith
  obtain ⟨D, hD1, hD2⟩ := add64_close hQ1 hC1 (hQCb.trans (by norm_num))
  have hD : |D - D0| ≤ 1 / 2 ^ 52 := by
    have := abs_sub_le D (Q + C) D0; norm_num at *; linarith
  exact ⟨hD0l, D, hD1, hD⟩

end Sys2Proof.Machine
end

