-- ==== Sys2Proof/Tests/Slice0.lean ====
section
/-! SUPPORT. The model's own tests. Expected frames, table words and outcomes are copied from 95_test_vectors.md L1 and L2, the
ids from 30_encoding.md R120. `test_` theorems run one step or one operation; `witness_` theorems show that the hypotheses of a
statement of Certificates/Slice0/Obligations.lean can be met together, at the boundary values of its clauses. -/

namespace Sys2Proof.Tests

open Sys2Proof.Machine Sys2Proof.Claims

/-- The state after reset with events to come. -/
def idle (es : List Input) : State := State.reset.setInputs es

/-- Bytes from their values. -/
def bytes (xs : List Nat) : List Byte := xs.map (BitVec.ofNat 8)

/-- The next state, if there is one. -/
def nextOf (o : Out) : Option State :=
  match o with
  | .next s => some s
  | .fault _ | .refused _ => none

/-- The fault, if there is one. -/
def faultOf (o : Out) : Option Fault :=
  match o with
  | .fault r => some r
  | .next _ | .refused _ => none

/-- The frame register after a step. -/
def frameAfter (o : Out) : Option (Reg Frame) := (nextOf o).map (·.frame)

/-- Phase, status and result after a step. -/
def outcomeAfter (o : Out) : Option (Phase × Reg Status × Reg Result) := (nextOf o).map fun s => (s.phase, s.status, s.result)

/-- A command in a phase, its registers as its accept leaves them, with events to come. -/
def inPhase (p : Phase) (i : Instr) (es : List Input) : State :=
  { State.reset with
    phase := p, cmd := .holds i.id, arg0 := .holds i.arg0, arg1 := .holds i.arg1, arg2 := .holds i.arg2
    frame := .holds (encode i), inputs := es }

/-- A command about to decode: `rb` in RB, `bs` in RESP. -/
def decoding (i : Instr) (rb : Byte) (bs : List Nat) : State :=
  { inPhase .decode i [.go] with rb := .holds rb, resp := bytes bs, rcnt := BitVec.ofNat 5 bs.length }

/-- A build in which `digital_write` has the opcode 200 and settles for 7 ms, with the addresses 4 and 5 and the reference
conversion. -/
def otherParams : Params :=
  { table := commandTable.set 1 (writeRow 200 .a0 .a1 .z (.ms 7)), addrMain := 4, addrAlt := 5, thermFn := thermReference64 }

/-! ### Well-formedness: each check refuses a term -/

theorem test_wf_refuses_wide_byte : (Instr.digitalRead 256 0 0).wellFormed = false := by decide
theorem test_wf_refuses_wide_second_byte : (Instr.digitalWrite 0 256 0).wellFormed = false := by decide
theorem test_wf_refuses_wide_third_byte : (Instr.fdMonitor 0 0 256).wellFormed = false := by decide
theorem test_wf_refuses_wide_pair : (Instr.ledbarSet 3 0x10000 0).wellFormed = false := by decide
theorem test_wf_refuses_no_mode : (Instr.pinMode 4 2 0).wellFormed = false := by decide
theorem test_wf_refuses_extra_first : (Instr.version 1 0 0).wellFormed = false := by decide
theorem test_wf_refuses_extra_second : (Instr.ledbarGet 3 1 0).wellFormed = false := by decide
theorem test_wf_refuses_extra_third : (Instr.thermRead 0 300 1).wellFormed = false := by decide
theorem test_wf_takes_widest : (Instr.ledbarSet 255 65535 0).wellFormed = true := by decide
theorem test_wf_takes_any_model : (Instr.thermRead 0 0xFFFFFFFF 0).wellFormed = true := by decide

/-! ### Decoding: the words of 95_test_vectors.md L2.1. The word of `therm_read` is `analog_read`'s (30_encoding.md R122). -/

theorem test_decode_digitalRead : decodeTableWord 32 0x01020000 = some (.digitalRead 2 0 0) := by decide
theorem test_decode_digitalWrite : decodeTableWord 32 0x02040100 = some (.digitalWrite 4 1 0) := by decide
theorem test_decode_analogRead : decodeTableWord 32 0x03000000 = some (.analogRead 0 0 0) := by decide
theorem test_decode_analogWrite : decodeTableWord 32 0x04058000 = some (.analogWrite 5 128 0) := by decide
theorem test_decode_pinMode : decodeTableWord 32 0x05040100 = some (.pinMode 4 1 0) := by decide
theorem test_decode_thermRead : decodeTableWord 32 0x03000000 = some (.analogRead 0 0 0) := by decide
theorem test_decode_ultrasonicRead : decodeTableWord 32 0x07040000 = some (.ultrasonicRead 4 0 0) := by decide
theorem test_decode_version : decodeTableWord 32 0x08000000 = some (.version 0 0 0) := by decide
theorem test_decode_accXyz : decodeTableWord 32 0x14000000 = some (.accXyz 0 0 0) := by decide
theorem test_decode_rtcGetTime : decodeTableWord 32 0x1E000000 = some (.rtcGetTime 0 0 0) := by decide
theorem test_decode_dhtRead : decodeTableWord 32 0x28040000 = some (.dhtRead 4 0 0) := by decide
theorem test_decode_ledbarInit : decodeTableWord 32 0x32050000 = some (.ledbarInit 5 0 0) := by decide
theorem test_decode_ledbarOrient : decodeTableWord 32 0x33050100 = some (.ledbarOrient 5 1 0) := by decide
theorem test_decode_ledbarLevel : decodeTableWord 32 0x34050700 = some (.ledbarLevel 5 7 0) := by decide
theorem test_decode_ledbarSetOne : decodeTableWord 32 0x35050301 = some (.ledbarSetOne 5 3 1) := by decide
theorem test_decode_ledbarToggleOne : decodeTableWord 32 0x36050300 = some (.ledbarToggleOne 5 3 0) := by decide
theorem test_decode_ledbarSet : decodeTableWord 32 0x37030F00 = some (.ledbarSet 3 15 0) := by decide
theorem test_decode_ledbarGet : decodeTableWord 32 0x38030000 = some (.ledbarGet 3 0 0) := by decide
theorem test_decode_fdInit : decodeTableWord 32 0x46050000 = some (.fdInit 5 0 0) := by decide
theorem test_decode_fdBrightness : decodeTableWord 32 0x47050700 = some (.fdBrightness 5 7 0) := by decide
theorem test_decode_fdValue : decodeTableWord 32 0x4805D204 = some (.fdValue 5 1234 0) := by decide
theorem test_decode_fdValueZeros : decodeTableWord 32 0x49052A00 = some (.fdValueZeros 5 42 0) := by decide
theorem test_decode_fdDigit : decodeTableWord 32 0x4A050209 = some (.fdDigit 5 2 9) := by decide
theorem test_decode_fdSegment : decodeTableWord 32 0x4B05007F = some (.fdSegment 5 0 127) := by decide
theorem test_decode_fdScore : decodeTableWord 32 0x4C050C22 = some (.fdScore 5 12 34) := by decide
theorem test_decode_fdMonitor : decodeTableWord 32 0x4D050003 = some (.fdMonitor 5 0 3) := by decide
theorem test_decode_fdAllOn : decodeTableWord 32 0x4E050000 = some (.fdAllOn 5 0 0) := by decide
theorem test_decode_fdAllOff : decodeTableWord 32 0x4F050000 = some (.fdAllOff 5 0 0) := by decide
theorem test_decode_rgbStoreColor : decodeTableWord 32 0x5AFF0080 = some (.rgbStoreColor 255 0 128) := by decide
theorem test_decode_rgbInit : decodeTableWord 32 0x5B070500 = some (.rgbInit 7 5 0) := by decide
theorem test_decode_rgbTest : decodeTableWord 32 0x5C070501 = some (.rgbTest 7 5 1) := by decide
theorem test_decode_rgbPattern : decodeTableWord 32 0x5D070002 = some (.rgbPattern 7 0 2) := by decide
theorem test_decode_rgbModulo : decodeTableWord 32 0x5E070002 = some (.rgbModulo 7 0 2) := by decide
theorem test_decode_rgbLevel : decodeTableWord 32 0x5F070301 = some (.rgbLevel 7 3 1) := by decide
theorem test_decode_irRead : decodeTableWord 32 0x15000000 = some (.irRead 0 0 0) := by decide
theorem test_decode_irRecvPin : decodeTableWord 32 0x16080000 = some (.irRecvPin 8 0 0) := by decide
theorem test_decode_dustRead : decodeTableWord 32 0x0A000000 = some (.dustRead 0 0 0) := by decide
theorem test_decode_dustEn : decodeTableWord 32 0x0E000000 = some (.dustEn 0 0 0) := by decide
theorem test_decode_dustDis : decodeTableWord 32 0x0F000000 = some (.dustDis 0 0 0) := by decide
theorem test_decode_encRead : decodeTableWord 32 0x0B000000 = some (.encRead 0 0 0) := by decide
theorem test_decode_encEn : decodeTableWord 32 0x10000000 = some (.encEn 0 0 0) := by decide
theorem test_decode_encDis : decodeTableWord 32 0x11000000 = some (.encDis 0 0 0) := by decide
theorem test_decode_flowRead : decodeTableWord 32 0x0C000000 = some (.flowRead 0 0 0) := by decide
theorem test_decode_flowEn : decodeTableWord 32 0x12000000 = some (.flowEn 0 0 0) := by decide
theorem test_decode_flowDis : decodeTableWord 32 0x0D000000 = some (.flowDis 0 0 0) := by decide

/-! ### Decoding: rejections by name -/

theorem test_decode_short : decode (bytes [1, 2, 0]) = .error .badLength := by decide
theorem test_decode_long : decode (bytes [1, 2, 0, 0, 0]) = .error .badLength := by decide
theorem test_decode_opcode_0 : decode (bytes [0, 0, 0, 0]) = .error .unknownOpcode := by decide
theorem test_decode_opcode_6 : decode (bytes [6, 0, 0, 0]) = .error .unknownOpcode := by decide
theorem test_decode_opcode_255 : decode (bytes [255, 0, 0, 0]) = .error .unknownOpcode := by decide
theorem test_decode_padding_L0 : decode (bytes [8, 0, 0, 1]) = .error .nonzeroPadding := by decide
theorem test_decode_padding_LP : decode (bytes [1, 2, 1, 0]) = .error .nonzeroPadding := by decide
theorem test_decode_padding_LPV : decode (bytes [2, 4, 1, 1]) = .error .nonzeroPadding := by decide
theorem test_decode_padding_LPM : decode (bytes [5, 4, 2, 0]) = .error .nonzeroPadding := by decide
theorem test_decode_no_word : decodeTableWord 32 0 = none := by decide

/-! ### Accept: the requests of 95_test_vectors.md L2.1 and their frames, for the commands that read nothing -/

theorem test_frame_digitalWrite : frameAfter (step (idle [.req 1 4 1 0])) = some (.holds ⟨2, 4, 1, 0⟩) := by decide
theorem test_frame_analogWrite : frameAfter (step (idle [.req 3 5 128 0])) = some (.holds ⟨4, 5, 128, 0⟩) := by decide
theorem test_frame_pinMode : frameAfter (step (idle [.req 4 4 1 0])) = some (.holds ⟨5, 4, 1, 0⟩) := by decide
theorem test_frame_ledbarInit : frameAfter (step (idle [.req 11 5 0 0])) = some (.holds ⟨50, 5, 0, 0⟩) := by decide
theorem test_frame_ledbarOrient : frameAfter (step (idle [.req 12 5 1 0])) = some (.holds ⟨51, 5, 1, 0⟩) := by decide
theorem test_frame_ledbarLevel : frameAfter (step (idle [.req 13 5 7 0])) = some (.holds ⟨52, 5, 7, 0⟩) := by decide
theorem test_frame_ledbarSetOne : frameAfter (step (idle [.req 14 5 3 1])) = some (.holds ⟨53, 5, 3, 1⟩) := by decide
theorem test_frame_ledbarToggleOne : frameAfter (step (idle [.req 15 5 3 0])) = some (.holds ⟨54, 5, 3, 0⟩) := by decide
theorem test_frame_ledbarSet : frameAfter (step (idle [.req 16 3 15 0])) = some (.holds ⟨55, 3, 15, 0⟩) := by decide
theorem test_frame_fdInit : frameAfter (step (idle [.req 18 5 0 0])) = some (.holds ⟨70, 5, 0, 0⟩) := by decide
theorem test_frame_fdBrightness : frameAfter (step (idle [.req 19 5 7 0])) = some (.holds ⟨71, 5, 7, 0⟩) := by decide
theorem test_frame_fdValue : frameAfter (step (idle [.req 20 5 1234 0])) = some (.holds ⟨72, 5, 210, 4⟩) := by decide
theorem test_frame_fdValueZeros : frameAfter (step (idle [.req 21 5 42 0])) = some (.holds ⟨73, 5, 42, 0⟩) := by decide
theorem test_frame_fdDigit : frameAfter (step (idle [.req 22 5 2 9])) = some (.holds ⟨74, 5, 2, 9⟩) := by decide
theorem test_frame_fdSegment : frameAfter (step (idle [.req 23 5 0 127])) = some (.holds ⟨75, 5, 0, 127⟩) := by decide
theorem test_frame_fdScore : frameAfter (step (idle [.req 24 5 12 34])) = some (.holds ⟨76, 5, 12, 34⟩) := by decide
theorem test_frame_fdMonitor : frameAfter (step (idle [.req 25 5 0 3])) = some (.holds ⟨77, 5, 0, 3⟩) := by decide
theorem test_frame_fdAllOn : frameAfter (step (idle [.req 26 5 0 0])) = some (.holds ⟨78, 5, 0, 0⟩) := by decide
theorem test_frame_fdAllOff : frameAfter (step (idle [.req 27 5 0 0])) = some (.holds ⟨79, 5, 0, 0⟩) := by decide
theorem test_frame_rgbStoreColor : frameAfter (step (idle [.req 28 255 0 128])) = some (.holds ⟨90, 255, 0, 128⟩) := by decide
theorem test_frame_rgbInit : frameAfter (step (idle [.req 29 7 5 0])) = some (.holds ⟨91, 7, 5, 0⟩) := by decide
theorem test_frame_rgbTest : frameAfter (step (idle [.req 30 7 5 1])) = some (.holds ⟨92, 7, 5, 1⟩) := by decide
theorem test_frame_rgbPattern : frameAfter (step (idle [.req 31 7 0 2])) = some (.holds ⟨93, 7, 0, 2⟩) := by decide
theorem test_frame_rgbModulo : frameAfter (step (idle [.req 32 7 0 2])) = some (.holds ⟨94, 7, 0, 2⟩) := by decide
theorem test_frame_rgbLevel : frameAfter (step (idle [.req 33 7 3 1])) = some (.holds ⟨95, 7, 3, 1⟩) := by decide
theorem test_frame_irRecvPin : frameAfter (step (idle [.req 35 8 0 0])) = some (.holds ⟨22, 8, 0, 0⟩) := by decide
theorem test_frame_dustEn : frameAfter (step (idle [.req 37 0 0 0])) = some (.holds ⟨14, 0, 0, 0⟩) := by decide
theorem test_frame_dustDis : frameAfter (step (idle [.req 38 0 0 0])) = some (.holds ⟨15, 0, 0, 0⟩) := by decide
theorem test_frame_encEn : frameAfter (step (idle [.req 40 0 0 0])) = some (.holds ⟨16, 0, 0, 0⟩) := by decide
theorem test_frame_encDis : frameAfter (step (idle [.req 41 0 0 0])) = some (.holds ⟨17, 0, 0, 0⟩) := by decide
theorem test_frame_flowEn : frameAfter (step (idle [.req 43 0 0 0])) = some (.holds ⟨18, 0, 0, 0⟩) := by decide
theorem test_frame_flowDis : frameAfter (step (idle [.req 44 0 0 0])) = some (.holds ⟨13, 0, 0, 0⟩) := by decide

/-! ### Decode steps: the blocks of 95_test_vectors.md L2.4 to L2.8, for the commands that read -/

theorem test_digitalRead : outcomeAfter (step (decoding (.digitalRead 2 0 0) 255 [])) =
    some (.done, .holds .ok, .holds (.byte 255)) := by decide
theorem test_analogRead : outcomeAfter (step (decoding (.analogRead 0 0 0) 0 [0, 0x03, 0xFF, 0, 0])) =
    some (.done, .holds .ok, .holds (.u16 1023)) := by decide
theorem test_thermRead : outcomeAfter (step (decoding (.thermRead 0 1 0) 0 [0, 0x03, 0xFF, 0, 0])) =
    some (.done, .holds .invalidReading, .unwritten) := by decide +kernel
theorem test_ultrasonicRead : outcomeAfter (step (decoding (.ultrasonicRead 4 0 0) 0 [0, 0x01, 0x2C, 0, 0])) =
    some (.done, .holds .ok, .holds (.u16 300)) := by decide
theorem test_version : outcomeAfter (step (decoding (.version 0 0 0) 0 [0, 0, 10, 255, 0])) =
    some (.done, .holds .ok, .holds (.version 0 10 255)) := by decide
theorem test_accXyz : outcomeAfter (step (decoding (.accXyz 0 0 0) 0 [0, 33, 32, 255, 0])) =
    some (.done, .holds .ok, .holds (.acc (-191) 32 31)) := by decide
theorem test_rtcGetTime : outcomeAfter (step (decoding (.rtcGetTime 0 0 0) 0 [255, 255, 255, 255, 255])) =
    some (.done, .holds .ok, .holds (.raw [255, 255, 255, 255, 255])) := by decide
theorem test_dhtRead : outcomeAfter (step (decoding (.dhtRead 4 0 0) 0 [0, 0xA4, 0x70, 0x45, 0xC1, 0, 0, 0, 0x3E])) =
    some (.done, .holds .ok, .holds (.dht (.fin (-1234)) (.fin 12))) := by decide
theorem test_ledbarGet : outcomeAfter (step (decoding (.ledbarGet 3 0 0) 0 [0, 0xFF, 0x03, 0, 0])) =
    some (.done, .holds .ok, .holds (.u16 1023)) := by decide
theorem test_irRead : outcomeAfter (step (decoding (.irRead 0 0 0) 0
    [0, 255, 0, 0, 0, 0, 0, 0, 0, 0, 0, 0, 0, 0, 0, 0, 0, 0, 0, 0, 0])) = some (.done, .holds .noData, .unwritten) := by decide
theorem test_dustRead : outcomeAfter (step (decoding (.dustRead 0 0 0) 0 [254, 0xFF, 0xFF, 0xFF, 0])) =
    some (.done, .holds .ok, .holds (.sent 254 16777215)) := by decide
theorem test_encRead : outcomeAfter (step (decoding (.encRead 0 0 0) 0 [255, 1, 2, 3, 4])) =
    some (.done, .holds .noData, .unwritten) := by decide
theorem test_flowRead : outcomeAfter (step (decoding (.flowRead 0 0 0) 0 [1, 0x2C, 0x01, 0, 0])) =
    some (.done, .holds .ok, .holds (.sent 1 300)) := by decide
theorem test_flowRead_short : outcomeAfter (step (decoding (.flowRead 0 0 0) 0 [0, 7])) =
    some (.done, .holds .noData, .unwritten) := by decide
theorem test_dhtRead_nan : outcomeAfter (step (decoding (.dhtRead 4 0 0) 0 [0, 0, 0, 0xCC, 0x41, 1, 0, 0x80, 0xFF])) =
    some (.done, .holds .invalidReading, .unwritten) := by decide

/-! ### Encoder corner cases: 95_test_vectors.md L2.2 -/

theorem test_truncates : encode (.digitalWrite 258 256 0) = ⟨2, 2, 0, 0⟩ := by decide
theorem test_truncates_negative : encode (.analogWrite (-1) 300 0) = ⟨4, 255, 44, 0⟩ := by decide
theorem test_splits : encode (.ledbarSet 3 0x3FF 0) = ⟨55, 3, 0xFF, 0x03⟩ := by decide
theorem test_split_drops_bit_16 : encode (.fdValue 5 65536 0) = ⟨72, 5, 0, 0⟩ := by decide
theorem test_mode_bit : encode (.pinMode 4 2 0) = ⟨5, 4, 0, 0⟩ ∧ encode (.pinMode 4 3 0) = ⟨5, 4, 1, 0⟩ := by decide

/-! ### Operations: 95_test_vectors.md L2.3, L2.5 to L2.7, and the machine's step -/

theorem test_ticks : [0, 50, 100, 200, 600].map ticks = [0, 51, 101, 201, 601] := by decide
theorem test_monitor_settle :
    ((lookup commandTable 25).map fun e => settle e ⟨77, 5, 0, 255⟩) = some 255051 := by decide
theorem test_fold : (bytes [0, 32, 33, 223, 224, 225, 255]).map fold = [0, 32, -191, -1, 0, 1, 31] := by decide
theorem test_rnd2_tie_to_even : rnd2 0x3E000000 = .fin 12 ∧ rnd2 0x3EC00000 = .fin 38 ∧ rnd2 0xBE000000 = .fin (-12) := by
  decide
theorem test_rnd2_below_tie : rnd2 0x3BA3D70A = .fin 0 ∧ rnd2 0x42053333 = .fin 3330 := by decide
theorem test_rnd2_ends : rnd2 0x80000000 = .fin 0 ∧ rnd2 0x00000001 = .fin 0 ∧ rnd2 0xFF800000 = .negInf ∧
    rnd2 0x7F7FFFFF = .fin 34028234663852885981170418348451692544000 := by decide
theorem test_nan : isNaN32 0x7FC00000 = true ∧ isNaN32 0x7F800001 = true ∧ isNaN32 0xFFC00000 = true ∧
    isNaN32 0x7F800000 = false := by decide
theorem test_model : bsel 257 = .b4250 ∧ bsel 2 = .b4250 ∧ bsel 3 = .b3975 ∧ bsel 0 = .b3975 := by decide
/-- The reference conversion at the ends and the middle of the domain: the decimals of 95_test_vectors.md L2.7 as binary64. -/
theorem test_therm_reference_3975 :
    thermReference64 1 .b3975 = 0xC0533DE94D647D24 ∧ thermReference64 511 .b3975 = 0x4038F4CF241BA320 ∧
    thermReference64 1022 .b3975 = 0x4075BAE9602B310C := by decide +kernel
theorem test_therm_reference_4250 :
    thermReference64 1 .b4250 = 0xC05221C5FA013C46 ∧ thermReference64 511 .b4250 = 0x4038F5887D256E00 ∧
    thermReference64 1022 .b4250 = 0x407330CF26BBEE2E := by decide +kernel
theorem test_binary64_special : div64 (literal64 1 1) (literal64 0 1) = .inf false ∧ div64 (literal64 0 1) (literal64 0 1) = .nan ∧
    ln64 (literal64 0 1) = .inf true ∧ ln64 (neg64 (literal64 1 1)) = .nan ∧ ln64 (literal64 1 1) = .fin false 0 := by
  decide +kernel
theorem test_version_text : String.ofList (renderVersion 0 10 255) = "0.10.255" := by decide
theorem test_parse_mode : parseCommand "pin_mode 4, OUTPUT" = some (.pinMode 4 1 0) := by decide
theorem test_parse_hex : parseCommand "ledbar_set 3, 0x0F" = some (.ledbarSet 3 15 0) := by decide
theorem test_parse_negative : parseCommand "fd_value 5, -1" = some (.fdValue 5 0xFFFFFFFF 0) := by decide
theorem test_parse_third_of_pair : parseCommand "fd_value 5, 1234, 9" = some (.fdValue 5 1234 9) := by decide
theorem test_parse_refuses_fourth : parseCommand "ledbar_set 3, 1, 2, 3" = none := by decide
theorem test_parse_refuses_extra : parseCommand "version 1" = none := by decide
theorem test_parse_pseudo : parseCommand "four_digit_number 5, 42" = some (.fdValueZeros 5 42 0) := by decide
theorem test_placed_word_runs : frameAfter (step (State.reset.withFetchWord 32 0x01020000)) = some (.holds ⟨1, 2, 0, 0⟩) := by
  decide
theorem test_request_45_refused : (nextOf (step (idle [.req 45 9 9 9]))).map (fun s => (s.phase, s.refused, s.cmd)) =
    some (.idle, true, .unwritten) := by decide
theorem test_write_command_runs : outcomeAfter (step (idle [.req 4 4 1 0, .answer (.ok []), .go])) =
    some (.done, .holds .ok, .holds .none) := by decide
theorem test_overlong_block_faults :
    faultOf (step (inPhase .rdBlk (.accXyz 0 0 0) [.answer (.ok (bytes [0, 0, 0, 0, 0, 0]))])) = some .overlongDelivery := by
  decide
theorem test_empty_byte_faults :
    faultOf (step (inPhase .rdByte (.digitalRead 2 0 0) [.answer (.ok [])])) = some .missingByte := by decide

theorem test_stale_status_unreadable :
    ({ inPhase .idle (.pinMode 4 1 0) [] with status := .holds .ok }).readStatus = .error (.unwrittenRead .status) := rfl
theorem test_build_refuses_fixed_opcode : build { defaultParams with table := commandTable.set 0 (byteRow 9 .a0 .z .z 100) } = none := rfl
theorem test_build_sends_its_opcode :
    frameAfter (stepWith otherParams (execWith otherParams) (idle [.req 1 8 1 0])) = some (.holds ⟨200, 8, 1, 0⟩) := by decide
/-- A legal table whose block row decodes RB, which no step of the command writes (log 29, log 30). -/
def unfitParams : Params := { otherParams with table := commandTable.set 1 (blockRow 200 .a0 .z .z false .main 5 0 0 .byte) }
theorem test_unfit_row_builds : build unfitParams = some (machineOf unfitParams) := rfl
theorem test_unfit_row_faults :
    faultOf (execWith unfitParams (.digitalWrite 8 1 0) (idle [.answer (.ok []), .go, .answer (.ok (bytes [1, 2, 3, 4, 5])), .go, .go])) =
      some (.unwrittenRead .rb) := by decide

/-! ### Witnesses -/

theorem witness_FramesDecodeToTheirCommands :
    (Instr.ledbarSet 255 65535 0).wellFormed = true ∧ (∀ p m u, Instr.ledbarSet 255 65535 0 ≠ .thermRead p m u) ∧
    (Instr.thermRead 255 300 0).wellFormed = true := ⟨by decide, by simp, by decide⟩
theorem witness_DecodedBytesAreTheCommandsFrame : decode (bytes [55, 255, 255, 255]) = .ok (.ledbarSet 255 65535 0) := by decide
theorem witness_DefaultTableIsLegal :
    ((lookup commandTable 34).map fun e => (e.rk, bytesNeeded e.fmt, e.rlen)) = some (.block, 21, 21) := by decide
theorem witness_AssemblerReadsEveryCommand :
    (Instr.pinMode 255 1 0).wellFormed = true ∧ (∀ p m u, Instr.pinMode 255 1 0 ≠ .thermRead p m u) ∧
    fitsByte 255 = true := ⟨by decide, by simp, by decide⟩
theorem witness_StepRunsTheRequestedCommand :
    (idle [.req 44 1 2 3, .tick]).ready = true ∧
    (idle [.req 44 1 2 3, .tick]).inputs =
      .req (Instr.flowDis 1 2 3).id (Instr.flowDis 1 2 3).arg0 (Instr.flowDis 1 2 3).arg1 (Instr.flowDis 1 2 3).arg2 :: [.tick] ∧
    (inPhase .write (.flowDis 1 2 3) [.tick]).ready = false ∧ State.reset.inputs = [] := by decide
theorem witness_StepRunsThePlacedFrame : decodeTableWord 32 0x5F0703FF = some (.rgbLevel 7 3 255) := by decide
theorem witness_AcceptLatchesTheRequest :
    (idle []).ready = true ∧ (44 : CmdId).toNat ≤ 44 ∧ (inPhase .decode (.version 0 0 0) []).ready = false := by decide
theorem witness_EveryCommandIsAcceptedWithItsFrame :
    (inPhase .done (.version 0 0 0) []).ready = true ∧ (inPhase .done (.version 0 0 0) []).inputs = [] ∧
    (inPhase .wait2 (.version 0 0 0) []).ready = false := by decide
theorem witness_RefusalOnlyMarksAndGoesIdle :
    (idle [.req 45 1 2 3, .tick]).ready = true ∧ 45 ≤ (45 : CmdId).toNat ∧
    (idle [.req 45 1 2 3, .tick]).inputs = .req 45 1 2 3 :: [.tick] ∧
    (inPhase .done (.version 0 0 0) [.req 63 1 2 3]).ready = true ∧ 45 ≤ (63 : CmdId).toNat := by decide
theorem witness_RefusedIsSticky :
    ∃ t, (idle [.req 4 4 1 0, .answer (.ok []), .go]).refuse.refused = true ∧
      Input.rst ∉ (idle [.req 4 4 1 0, .answer (.ok []), .go]).refuse.inputs ∧
      step (idle [.req 4 4 1 0, .answer (.ok []), .go]).refuse = .next t := ⟨_, by decide, by decide, rfl⟩
theorem witness_ResetIsTakenInEveryPhase :
    (inPhase .rdBlk (.accXyz 0 0 0) [.rst, .tick]).inputs = .rst :: [.tick] ∧ (idle [.rst]).inputs = .rst :: [] := by decide
theorem witness_FailedOperationEndsTheCommand :
    (inPhase .write (.version 0 0 0) []).phase = .write ∧ (inPhase .rdByte (.version 0 0 0) []).phase = .rdByte ∧
    (inPhase .rdBlk (.version 0 0 0) []).phase = .rdBlk := by decide
theorem witness_WriteSuccessLoadsTheSettleCount :
    (inPhase .write (.fdMonitor 5 0 255) []).phase = .write ∧ (inPhase .write (.fdMonitor 5 0 255) []).cmd = .holds 25 ∧
    (∃ e, lookup commandTable 25 = some e) ∧ (inPhase .write (.fdMonitor 5 0 255) []).frame = .holds ⟨77, 5, 0, 255⟩ :=
  ⟨rfl, rfl, ⟨_, rfl⟩, by decide⟩
theorem witness_TicksCountOnlyInWaits :
    ((inPhase .wait1 (.version 0 0 0) []).loadDelay .wait1 1).phase = .wait1 ∧
    ((inPhase .wait1 (.version 0 0 0) []).loadDelay .wait1 1).dly ≠ 0 ∧
    (inPhase .write (.version 0 0 0) []).phase ≠ .wait1 ∧ (inPhase .write (.version 0 0 0) []).phase ≠ .wait2 ∧
    (inPhase .wait2 (.version 0 0 0) []).phase = .wait2 ∧ (inPhase .wait2 (.version 0 0 0) []).dly = 0 := by decide
theorem witness_ExitFromTheSettleWait :
    (inPhase .wait1 (.version 0 0 0) []).phase = .wait1 ∧ (inPhase .wait1 (.version 0 0 0) []).dly = 0 ∧
    (inPhase .wait1 (.version 0 0 0) []).cmd = .holds 7 ∧
    ((lookup commandTable 7).map fun e => (e.rk, e.disc)) = some (.block, true) ∧
    ((lookup commandTable 8).map fun e => (e.rk, e.disc)) = some (.block, false) ∧
    ((lookup commandTable 0).map (·.rk)) = some .byte ∧ ((lookup commandTable 1).map (·.rk)) = some .none := by decide
theorem witness_ByteReadFillsRb :
    (inPhase .rdByte (.digitalRead 2 0 0) []).phase = .rdByte ∧ (inPhase .rdByte (.digitalRead 2 0 0) []).cmd = .holds 0 ∧
    ((lookup commandTable 0).map (·.rk)) = some .byte ∧ ((lookup commandTable 2).map (·.rk)) = some .block := by decide
theorem witness_BlockReadFillsResp :
    (inPhase .rdBlk (.accXyz 0 0 0) []).phase = .rdBlk ∧ (inPhase .rdBlk (.accXyz 0 0 0) []).cmd = .holds 8 ∧
    ((lookup commandTable 8).map fun e => e.rlen.toNat) = some 5 ∧ (bytes [1, 2, 3, 4, 5]).length ≤ 5 ∧
    5 < (bytes [1, 2, 3, 4, 5, 6]).length := by decide
theorem witness_DecodeStepWritesTheOutcome :
    (decoding (.encRead 0 0 0) 0 [1, 7]).phase = .decode ∧ (decoding (.encRead 0 0 0) 0 [1, 7]).cmd = .holds 39 ∧
    ((lookup commandTable 39).map (·.fmt)) = some .sent2 ∧
    decodePayload Config.thermFn .sent2 (decoding (.encRead 0 0 0) 0 [1, 7]) = .ok (.ok (.sent 1 7)) ∧
    decodePayload Config.thermFn .sent2 (decoding (.encRead 0 0 0) 0 [1]) = .ok .noData ∧
    decodePayload Config.thermFn .therm (decoding (.thermRead 0 0 0) 0 [0, 0, 0]) = .ok .invalidReading := by decide
theorem witness_OnlyEnabledEventsAct :
    (inPhase .rdByte (.version 0 0 0) []).phase = .rdByte ∧ Input.go ≠ .rst ∧ (∀ a, Input.go ≠ .answer a) ∧
    ¬((inPhase .wait1 (.version 0 0 0) []).phase = .write ∨ (inPhase .wait1 (.version 0 0 0) []).phase = .rdByte ∨
      (inPhase .wait1 (.version 0 0 0) []).phase = .rdBlk) ∧
    (inPhase .decode (.version 0 0 0) []).phase = .decode ∧ (inPhase .done (.version 0 0 0) []).phase = .done :=
  ⟨by decide, by decide, by simp, by decide, by decide, by decide⟩

theorem witness_GpioWritesComplete :
    (idle (settled [] 0 [])).ready = true ∧
    (idle (settled [] 0 [])).inputs = settled [] 0 [] := ⟨rfl, rfl⟩
theorem witness_DigitalReadCompletes :
    (idle (settled [] 101 (lastRead [1] 0 []))).ready = true ∧
    101 ≤ 101 ∧
    (idle (settled [] 101 (lastRead [1] 0 []))).inputs = settled [] 101 (lastRead [1] 0 []) := ⟨rfl, by decide, rfl⟩
theorem witness_AnalogAndUltrasonicReadsComplete :
    (idle (settled [] 201 (.answer (.ok [7]) :: lastRead [0, 3, 255, 0, 0] 101 []))).ready = true ∧
    [(0 : Byte), 0].length ≤ 2 ∧
    101 ≤ 201 ∧
    101 ≤ 101 ∧
    201 ≤ 201 ∧
    (idle (settled [] 201 (.answer (.ok [7]) :: lastRead [0, 3, 255, 0, 0] 101 []))).inputs = settled [] 201 (.answer (.ok [7]) :: lastRead [0, 3, 255, 0, 0] 101 []) := ⟨rfl, by decide, by decide, by decide, by decide, rfl⟩
theorem witness_ThermReadCompletes :
    (idle (settled [] 101 (.answer (.ok [7]) :: lastRead [0, 3, 254] 101 []))).ready = true ∧
    ([] : List Byte).length ≤ 2 ∧
    101 ≤ 101 ∧
    1 ≤ (3 : Byte).toNat * 256 + (254 : Byte).toNat ∧
    (3 : Byte).toNat * 256 + (254 : Byte).toNat < 1023 ∧
    (3 : Byte).toNat * 256 + (255 : Byte).toNat = 1023 ∧
    (idle (settled [] 101 (.answer (.ok [7]) :: lastRead [0, 3, 254] 101 []))).inputs = settled [] 101 (.answer (.ok [7]) :: lastRead [0, 3, 254] 101 []) := ⟨rfl, by decide, by decide, by decide, by decide, by decide, rfl⟩
theorem witness_VersionAndRtcReadsComplete :
    (idle (settled [] 101 (.answer (.ok [7]) :: lastRead [0, 1, 2, 7, 0] 0 []))).ready = true ∧
    101 ≤ 101 ∧
    [(0 : Byte)].length = 1 ∧
    (idle (settled [] 101 (.answer (.ok [7]) :: lastRead [0, 1, 2, 7, 0] 0 []))).inputs = settled [] 101 (.answer (.ok [7]) :: lastRead [0, 1, 2, 7, 0] 0 []) := ⟨rfl, by decide, by decide, rfl⟩
theorem witness_AccelerometerReadCompletes :
    (idle (settled [] 101 (lastRead [0, 33, 32, 255, 0] 0 []))).ready = true ∧
    101 ≤ 101 ∧
    [(0 : Byte)].length ≤ 1 ∧
    (idle (settled [] 101 (lastRead [0, 33, 32, 255, 0] 0 []))).inputs = settled [] 101 (lastRead [0, 33, 32, 255, 0] 0 []) := ⟨rfl, by decide, by decide, rfl⟩
theorem witness_DhtReadCompletes :
    (idle (settled [] 601 (lastRead [0, 0, 0, 0xCC, 0x41, 0, 0, 0x70, 0x42] 101 []))).ready = true ∧
    601 ≤ 601 ∧
    101 ≤ 101 ∧
    isNaN32 (f32le 0 0 0xCC 0x41) = false ∧
    isNaN32 (f32le 1 0 0x80 0xFF) = true ∧
    (idle (settled [] 601 (lastRead [0, 0, 0, 0xCC, 0x41, 0, 0, 0x70, 0x42] 101 []))).inputs = settled [] 601 (lastRead [0, 0, 0, 0xCC, 0x41, 0, 0, 0x70, 0x42] 101 []) := ⟨rfl, by decide, by decide, by decide, by decide, rfl⟩
theorem witness_LedBarWritesComplete :
    (idle (settled [] 0 [])).ready = true ∧
    (idle (settled [] 0 [])).inputs = settled [] 0 [] := ⟨rfl, rfl⟩
theorem witness_LedBarGetCompletes :
    (idle (settled [] 201 (lastRead [0, 15, 0] 0 []))).ready = true ∧
    201 ≤ 201 ∧
    ([] : List Byte).length ≤ 2 ∧
    (idle (settled [] 201 (lastRead [0, 15, 0] 0 []))).inputs = settled [] 201 (lastRead [0, 15, 0] 0 []) := ⟨rfl, by decide, by decide, rfl⟩
theorem witness_FourDigitWritesComplete :
    (idle (settled [] 51 [])).ready = true ∧
    51 ≤ 51 ∧
    (idle (settled [] 51 [])).inputs = settled [] 51 [] := ⟨rfl, by decide, rfl⟩
theorem witness_MonitorModeHoldsForTheSentDuration :
    (idle (settled [] 255051 [])).ready = true ∧ 1000 * (lo8 255).toNat + 51 ≤ 255051 ∧
    (idle (settled [] 255051 [])).inputs = settled [] 255051 [] ∧
    255050 ≤ 1000 * (lo8 255).toNat + 50 ∧
    (idle (.answer (.ok []) :: List.replicate 255050 .tick)).inputs = .answer (.ok []) :: List.replicate 255050 .tick :=
  ⟨rfl, by decide, rfl, by decide, rfl⟩
theorem witness_RgbWritesComplete :
    (idle (settled [] 51 [])).ready = true ∧
    51 ≤ 51 ∧
    (idle (settled [] 51 [])).inputs = settled [] 51 [] := ⟨rfl, by decide, rfl⟩
theorem witness_SensorSwitchesComplete :
    (idle (settled [] 201 [])).ready = true ∧
    201 ≤ 201 ∧
    (idle (settled [] 201 [])).inputs = settled [] 201 [] := ⟨rfl, by decide, rfl⟩
theorem witness_IrReadCompletes :
    (idle (settled [] 101 (lastRead (0 :: 254 :: List.replicate 19 0) 0 []))).ready = true ∧
    101 ≤ 101 ∧
    (List.replicate 19 (0 : Byte)).length = 19 ∧
    (idle (settled [] 101 (lastRead (0 :: 254 :: List.replicate 19 0) 0 []))).inputs = settled [] 101 (lastRead (0 :: 254 :: List.replicate 19 0) 0 []) := ⟨rfl, by decide, by decide, rfl⟩
theorem witness_SentinelReadsComplete :
    (idle (settled [] 201 (lastRead [1, 16, 39, 0, 0] 0 []))).ready = true ∧
    201 ≤ 201 ∧
    [(0 : Byte)].length ≤ 1 ∧
    [(39 : Byte), 0, 0].length ≤ 3 ∧
    [(0 : Byte), 0].length ≤ 2 ∧
    (idle (settled [] 201 (lastRead [1, 16, 39, 0, 0] 0 []))).inputs = settled [] 201 (lastRead [1, 16, 39, 0, 0] 0 []) := ⟨rfl, by decide, by decide, by decide, by decide, rfl⟩
theorem witness_ShortBlocksAreNoData :
    ∃ e e', (idle (settled [] 101 (lastRead [1, 2, 3] 0 []))).ready = true ∧
      lookup commandTable (Instr.accXyz 0 0 0).id = some e ∧ e.rk = .block ∧
      (bytes [1, 2, 3]).length < bytesNeeded e.fmt ∧ settle e (encode (.accXyz 0 0 0)) ≤ 101 ∧ ticks e.d2 ≤ 0 ∧ e.disc = false ∧
      lookup commandTable (Instr.analogRead 0 0 0).id = some e' ∧ e'.rk = .block ∧
      (bytes [1, 2]).length < bytesNeeded e'.fmt ∧ settle e' (encode (.analogRead 0 0 0)) ≤ 101 ∧ ticks e'.d2 ≤ 101 ∧
      e'.disc = true := ⟨_, _, rfl, rfl, rfl, by decide, by decide, by decide, rfl, rfl, rfl, by decide, by decide, by decide, rfl⟩
theorem witness_EveryCommandTakesABusErrorOnItsWrite :
    (idle [.answer (.fail [7]), .tick]).ready = true ∧
    (idle [.answer (.fail [7]), .tick]).inputs = .answer (.fail [7]) :: [.tick] := by decide
theorem witness_ByteReadFailureIsABusError :
    ∃ e e', (idle (settled [] 101 [.answer (.fail [7])])).ready = true ∧
      lookup commandTable (Instr.digitalRead 2 0 0).id = some e ∧ e.rk = .byte ∧
      settle e (encode (.digitalRead 2 0 0)) ≤ 101 ∧
      lookup commandTable (Instr.version 0 0 0).id = some e' ∧ (e'.rk = .block ∧ e'.disc = true) ∧
      settle e' (encode (.version 0 0 0)) ≤ 101 ∧
      (idle (settled [] 101 [.answer (.fail [7])])).inputs = settled [] 101 (.answer (.fail [7]) :: []) :=
  ⟨_, _, rfl, rfl, rfl, by decide, rfl, by decide, by decide, rfl⟩
theorem witness_BlockReadFailureIsABusError :
    ∃ e e', (idle (settled [] 101 [.answer (.fail [7])])).ready = true ∧
      lookup commandTable (Instr.accXyz 0 0 0).id = some e ∧ e.rk = .block ∧ e.disc = false ∧
      settle e (encode (.accXyz 0 0 0)) ≤ 101 ∧
      lookup commandTable (Instr.version 0 0 0).id = some e' ∧ e'.rk = .block ∧ e'.disc = true ∧
      settle e' (encode (.version 0 0 0)) ≤ 101 := ⟨_, _, rfl, rfl, rfl, rfl, by decide, rfl, rfl, rfl, by decide⟩
theorem witness_UnansweredWriteBlocksTheEngine :
    (idle [.tick, .go, .req 0 0 0 0]).ready = true ∧ Input.rst ∉ (idle [.tick, .go, .req 0 0 0 0]).inputs ∧
    (∀ a, Input.answer a ∉ (idle [.tick, .go, .req 0 0 0 0]).inputs) :=
  ⟨rfl, by decide, fun a => by simp [idle, State.setInputs]⟩
theorem witness_CommandsRefineTheReference :
    ∃ t, exec (.pinMode 4 1 0) (idle [.tick, .answer (.ok []), .go, .tick]) = .next t ∧
      (idle [.tick, .answer (.ok []), .go, .tick]).ready = true ∧ t.phase = .done := ⟨_, rfl, rfl, rfl⟩
theorem witness_CommandsTakeTheirMinimumTicks :
    ∃ t, exec (.pinMode 4 1 0) (idle [.tick, .answer (.ok []), .go, .tick]) = .next t ∧
      (idle [.tick, .answer (.ok []), .go, .tick]).ready = true ∧ t.phase = .done ∧ t.status ≠ .holds .busError :=
  ⟨_, rfl, rfl, rfl, by decide⟩

/-- The invariant of the engine's registers holds of a state in IDLE with the values of reset, whatever events are to come. -/
theorem inv_idle (es : List Input) : Inv commandTable (idle es) :=
  ⟨fun _ => rfl, Nat.zero_le _, Nat.zero_le _, rfl, fun _ h => (by cases h), .inl rfl⟩

theorem witness_StepsKeepTheInvariant :
    ∃ t, Inv commandTable (idle [.req 4 4 1 0, .answer (.ok []), .go]) ∧
      step (idle [.req 4 4 1 0, .answer (.ok []), .go]) = .next t := ⟨_, inv_idle _, rfl⟩
theorem witness_NoStepReadsAnUnwrittenRegister :
    Inv commandTable (idle [.req 4 4 1 0, .answer (.ok []), .go]) := inv_idle _
theorem witness_StepsKeepTheTransportHandshake :
    ∃ t, Inv commandTable (idle [.req 4 4 1 0, .answer (.ok []), .go]) ∧
      (idle [.req 4 4 1 0, .answer (.ok []), .go]).portOk commandTable ∧
      step (idle [.req 4 4 1 0, .answer (.ok []), .go]) = .next t := ⟨_, inv_idle _, rfl, rfl⟩

/-- A finished `pin_mode`: `OK` and `none`. -/
def finished : State := (inPhase .done (.pinMode 4 1 0) []).finish (.ok .none)

/-- A `pin_mode` whose frame write failed. -/
def failed : State := (inPhase .done (.pinMode 4 1 0) []).takeBusError [7]

theorem witness_OutcomeIsReadableExactlyWhenValid :
    Inv commandTable finished ∧ (finished.phase = .done ∧ finished.status = .holds .ok) ∧
    ¬(finished.phase = .done ∧ finished.status = .holds .busError) ∧
    finished.readStatus = .ok .ok ∧ finished.readResult = .ok .none ∧
    Inv commandTable failed ∧ (failed.phase = .done ∧ failed.status = .holds .busError) ∧
    ¬(failed.phase = .done ∧ failed.status = .holds .ok) ∧ failed.readDiag = .ok [7] ∧
    Inv commandTable (idle []) ∧ (idle []).phase ≠ .done :=
  ⟨⟨fun _ => rfl, Nat.zero_le _, Nat.zero_le _, rfl, fun _ h => (by cases h; trivial),
      .inr ⟨4, _, 4, 1, 0, rfl, rfl, rfl, rfl, rfl, rfl, by simp [Reg.written, finished, State.finish], rfl⟩⟩, by decide,
    by decide, rfl, rfl,
    ⟨fun _ => rfl, Nat.zero_le _, Nat.zero_le _, rfl, fun _ h => (by cases h),
      .inr ⟨4, _, 4, 1, 0, rfl, rfl, rfl, rfl, rfl, rfl, rfl, by simp [Reg.written, failed, State.takeBusError]⟩⟩, by decide,
    by decide, rfl, inv_idle _, by decide⟩
theorem witness_CompositeInvertsTheSplit : (65535 : Word).toNat ≤ 65535 ∧ (0 : Word).toNat ≤ 65535 := by decide
theorem witness_FoldOfASignedOffsetByte : (32 : Byte).toNat ≤ 32 ∧ 32 < (33 : Byte).toNat := by decide
theorem witness_VersionRendersAsDecimals : (255 : Byte) ≠ 0 ∧ '5' ∈ decimal 255 := by decide
theorem witness_RoundingIsExactToNearestEven :
    ¬ expoOnes 0x7F7FFFFF ∧ (expoOnes 0xFF800000 ∧ fracZero 0xFF800000) ∧ (expoOnes 0x7F800001 ∧ ¬ fracZero 0x7F800001) := by
  unfold expoOnes fracZero; decide
theorem witness_ThermistorReferenceIsDefined : 1 ≤ 1 ∧ 1022 ≤ 1022 := by decide
theorem witness_BuildsAreBoundToLegalTablesOnly :
    build otherParams = some (machineOf otherParams) ∧ build { otherParams with table := [] } ≠ some (machineOf { otherParams with table := [] }) := ⟨rfl, nofun⟩
theorem witness_EveryBuildRunsItsOwnTable :
    ∃ e, build otherParams = some (machineOf otherParams) ∧ (idle []).ready = true ∧ (idle []).inputs = [] ∧
      (idle [.req 1 8 1 0]).inputs =
        .req (Instr.digitalWrite 8 1 0).id (Instr.digitalWrite 8 1 0).arg0 (Instr.digitalWrite 8 1 0).arg1
          (Instr.digitalWrite 8 1 0).arg2 :: [] ∧
      45 ≤ (45 : CmdId).toNat ∧ (idle [.req 45 8 1 0]).inputs = .req 45 8 1 0 :: [] ∧
      lookup otherParams.table (Instr.digitalWrite 8 1 0).id = some e ∧ e.rk = .none ∧
      settle e (encodeFrame e 8 1 0) ≤ 8 ∧ settle e (encodeFrame e 8 1 0) < 2 ^ 32 ∧
      (idle (settled [] 8 [])).inputs = settled [] 8 [] ∧
      (decoding (.thermRead 0 2 0) 9 [0, 3, 254]).phase = .decode ∧
      ((lookup otherParams.table 5).map (·.fmt)) = some .therm ∧
      (decoding (.thermRead 0 2 0) 9 [0, 3, 254]).resp = bytes [0, 3, 254] ∧
      (decoding (.thermRead 0 2 0) 9 [0, 3, 254]).rcnt.toNat = (bytes [0, 3, 254]).length :=
  ⟨_, rfl, rfl, rfl, rfl, by decide, rfl, rfl, rfl, by decide, by decide, rfl, rfl, rfl, rfl, rfl⟩

end Sys2Proof.Tests
end

/-! PROOFS. The statements about builds: which tables a build accepts, and how every build's machine runs its own table, its `THERM_FN`
and its addresses. -/

namespace Sys2Proof.Proofs.Builds

open Sys2Proof.Machine Sys2Proof.Claims

variable {G : Params} {T : CommandTable} {s : State} {i : Instr} {c : CmdId} {e : CtEntry} {f : Frame} {m : Word}
  {rest : List Input}

/-! ### Which tables a build accepts -/

/-- The check of a table, as the constraints of 10_state.md R59. -/
theorem tableOk_iff :
    tableOk T = true ↔
      T.length = 45 ∧
      (∀ e ∈ T, e.rlen.toNat ≤ 21 ∧ (e.rk = .none → e.fmt = .none ∧ e.d2 = 0) ∧ (e.rk = .byte → e.fmt = .byte) ∧
        (e.raddr = .alt → e.rk = .block)) ∧
      (∃ e, T[0]? = some e ∧ e.opc = 1) ∧ (∃ e, T[17]? = some e ∧ e.opc = 56) := by
  simp only [tableOk, fixedOpcodesOk, Bool.and_eq_true, List.all_eq_true, entryOk_iff, beq_iff_eq,
    Option.map_eq_some_iff, Config.nCmd, Config.respCap, and_assoc]

/-- A build gives the machine of its parameters exactly when its table passes the check. -/
theorem build_eq_some_iff : build G = some (machineOf G) ↔ tableOk G.table = true := by
  constructor
  · intro h; rw [← build_isSome, h]; rfl
  · exact build_eq

/-- A build whose table fails the check gives no machine. -/
theorem build_eq_none (h : tableOk G.table ≠ true) : build G = none := by
  rw [← Option.not_isSome_iff_eq_none, build_isSome]; exact h

/-- The default table passes the check. -/
theorem tableOk_commandTable : tableOk commandTable = true := by decide

/-- The machine of the default parameters is the model's core. -/
theorem machineOf_default : machineOf defaultParams = core := by
  rw [machineOf, execWith_default]; rfl

/-- Settles O59: the check of the table is R59's list, and the build asks nothing else. -/
theorem buildsAreBoundToLegalTablesOnly : Obligations.BuildsAreBoundToLegalTablesOnly := by
  refine ⟨fun G => build_eq_some_iff.trans tableOk_iff, fun G h => build_eq_none (mt build_eq h), ?_⟩
  rw [build_eq tableOk_commandTable, machineOf_default]

/-! ### Requests -/

/-- A ready machine that is given the request of a command runs the command. -/
theorem stepWith_request {run : Instr → State → Out} (hr : s.ready = true)
    (hi : s.inputs = .req i.id i.arg0 i.arg1 i.arg2 :: rest) : stepWith G run s = run i (s.setInputs rest) := by
  simp only [stepWith, hr, hi, requested, commandOf_request, if_true]

/-- A ready machine refuses the request of an id that names no command and has no entry (40_core.md R161). -/
theorem stepWith_refused {run : Instr → State → Out} {a0 a1 a2 : Word} (hr : s.ready = true)
    (hc : commandOf c a0 a1 a2 = none) (he : lookup G.table c = none) (hi : s.inputs = .req c a0 a1 a2 :: rest) :
    stepWith G run s = .next (s.setInputs rest).refuse := by
  simp only [stepWith, hr, hi, requested, hc, if_true, engineStep, takeRequest, ready_setInputs, he]

/-- A legal table has no entry beyond the last id. -/
theorem lookup_eq_none (h : tableOk T = true) (hc : 45 ≤ c.toNat) : lookup T c = none := by
  rw [← Option.not_isSome_iff_eq_none, lookup_isSome h]; omega

/-- Every command's id is one of the table's ids: the default table has an entry for it. -/
theorem id_lt (i : Instr) : i.id.toNat < 45 := by
  obtain ⟨e, he, -⟩ := lookup_id i
  exact (lookup_isSome tableOk_commandTable).mp (Option.isSome_of_eq_some he)

/-- A legal table has an entry for every command. -/
theorem exists_lookup_id (h : tableOk T = true) (i : Instr) : ∃ e, lookup T i.id = some e :=
  Option.isSome_iff_exists.mp ((lookup_isSome h).mpr (id_lt i))

/-! ### The accept and the write-only commands -/

/-- With no event to come, a ready engine accepts the command and stays in WRITE (40_core.md R162, R163). -/
theorem execWith_accept (hr : s.ready = true) (he : lookup G.table i.id = some e) (hi : s.inputs = []) :
    execWith G i s = .next (s.latch i.id i.arg0 i.arg1 i.arg2 (encodeFrame e i.arg0 i.arg1 i.arg2)) := by
  rw [execWith_ready hr he, hi, drive_nil]

/-- A write-only command completes with `OK` and `none` after its entry's settle ticks (40_core.md R164, R168, R169). -/
theorem execWith_settled {x : List Byte} {n : Nat} (hr : s.ready = true) (he : lookup G.table i.id = some e)
    (hf : f = encodeFrame e i.arg0 i.arg1 i.arg2) (hk : e.rk = .none) (hn : settle e f ≤ n) (hb : settle e f < 2 ^ 32)
    (hi : s.inputs = settled x n rest) :
    execWith G i s = .next (wrote s i.id i.arg0 i.arg1 i.arg2 f x rest) := by
  rw [execWith_ready hr he, ← hf, hi, settled, drive_settled (by simp) (by simp) he (by simp) hn hb,
    drive_ended (by simp) (by simp) (by simp) he hk]
  simp [wrote, busWrite, State.finish, State.setInputs, State.loadDelay, State.note, State.latch, Verdict.status]

/-! ### The thermistor decode -/

/-- The coefficient's selection by the value of the selector's low byte (41_gpio.md R227). -/
theorem bsel_eq (m : Word) : bsel m = if m.toNat % 256 = 1 ∨ m.toNat % 256 = 2 then .b4250 else .b3975 := by
  have lo8_eq (b : Byte) : lo8 m = b ↔ m.toNat % 256 = b.toNat := by
    rw [← BitVec.toNat_inj]; simp [lo8]
  simp only [bsel, lo8_eq]; rfl

/-- The conversion is an invalid reading outside the domain and on a NaN, and `THERM_FN`'s value otherwise (40_core.md R191). -/
theorem thermValue_eq (F : ThermFn) (a : Nat) (b : BCoeff) :
    thermValue F a b =
      if a = 0 ∨ 1023 ≤ a ∨ isNaN64 (F a b) = true then .invalidReading else .ok (.temp (F a b)) := by
  simp only [thermValue, ← or_assoc, ite_or]

/-- A block of at least three bytes is decoded by the thermistor's rule (40_core.md R187, R191). -/
theorem decodePayload_therm {F : ThermFn} {b0 hi lo : Byte} {more : List Byte} (ha : s.arg1 = .holds m)
    (hs : s.resp = b0 :: hi :: lo :: more) (hl : s.rcnt.toNat = s.resp.length) :
    decodePayload F .therm s = .ok (thermValue F (comp16 hi lo) (bsel m)) := by
  have hshort : s.short .therm = false := by simp [State.short, bytesNeeded, hl, hs]
  simp [decodePayload, hshort, decodeBlock, decodeTherm, hs, ha]

/-- The decode step ends the command with the verdict of its entry's format (40_core.md R176). -/
theorem engineStep_decode {v : Verdict} (hp : s.phase = .decode) (hc : s.cmd = .holds c)
    (he : lookup G.table c = some e) (hv : decodePayload G.thermFn e.fmt s = .ok v) :
    engineStep G .go s = .next (s.finish v) := by
  simp only [engineStep, takeGo, hp, decodeStep, withEntry_eq _ hc he, hv]

/-! ### Every build -/

/-- Settles O60: each clause by the rule of the engine for any parameters; the table's part is that a legal table has an entry for
exactly the ids up to 44. -/
theorem everyBuildRunsItsOwnTable : Obligations.EveryBuildRunsItsOwnTable := by
  intro G hG
  have hT : tableOk G.table = true := build_eq_some_iff.mp hG
  refine ⟨?_, ?_, ?_, ?_, fun _ _ => ⟨rfl, rfl, rfl, rfl⟩⟩
  · intro s i rest hr hi
    exact stepWith_request hr hi
  · intro s c a0 a1 a2 rest hr hc hi
    exact stepWith_refused hr (commandOf_none a0 a1 a2 hc) (lookup_eq_none hT hc) hi
  · intro i
    obtain ⟨e, he⟩ := exists_lookup_id hT i
    refine ⟨e, _, he, rfl, ?_, ?_⟩
    · intro s hr hi
      exact execWith_accept hr he hi
    · intro s x n rest hr hk hn hb hi
      exact execWith_settled hr he rfl hk hn hb hi
  · rintro s c e m b0 hi lo more a b hp hc he hx hm hs hl ha hb
    have hv : decodePayload G.thermFn e.fmt s = .ok (thermValue G.thermFn (comp16 hi lo) (bsel m)) :=
      hx ▸ decodePayload_therm hm hs hl
    rw [engineStep_decode hp hc he hv, thermValue_eq, bsel_eq, ← hb, comp16, ← ha]
    split <;> rfl

end Sys2Proof.Proofs.Builds

/-! PROOFS. The statements about the default table, the reset state, the accept, reset and the events that enable nothing, and the mark
of a refusal. -/

namespace Sys2Proof.Proofs.Registers

open Sys2Proof.Machine

variable {G : Params} {T : CommandTable} {s t : State} {ev : Input} {es rest : List Input} {c : CmdId} {e : CtEntry}

/-! ### The default table -/

/-- Every block row of the default table asks for at least the bytes that its format needs (40_core.md R187). -/
theorem bytesNeeded_le_rlen (he : lookup commandTable c = some e) (hk : e.rk = .block) :
    bytesNeeded e.fmt ≤ e.rlen.toNat := by
  have table : ∀ c : CmdId, ∀ e ∈ lookup commandTable c, e.rk = .block → bytesNeeded e.fmt ≤ e.rlen.toNat := by decide
  exact table c e he hk

/-- No block row of the default table decodes RB (log 30). -/
theorem fmt_ne_byte_of_block (he : lookup commandTable c = some e) (hk : e.rk = .block) : e.fmt ≠ .byte := by
  have table : ∀ c : CmdId, ∀ e ∈ lookup commandTable c, e.rk = .block → e.fmt ≠ .byte := by decide
  exact table c e he hk

/-- No row of a legal table asks for more bytes than `RESP` holds (10_state.md R59). -/
theorem rlen_le_respCap (hT : tableOk T = true) (he : lookup T c = some e) : e.rlen.toNat ≤ Config.respCap := by
  obtain ⟨-, hrows, -⟩ := Builds.tableOk_iff.mp hT
  exact (hrows e (List.mem_of_getElem? he)).1

/-- Settles O6: the check of the table and the opcodes by evaluation of the table, the ids by the check. -/
theorem defaultTableIsLegal : Obligations.DefaultTableIsLegal := by
  refine ⟨fun c => ?_, ?_, ?_, fun c e he hk => bytesNeeded_le_rlen he hk⟩
  · rw [lookup_isSome Builds.tableOk_commandTable]; omega
  · simp [configure, Builds.tableOk_commandTable]
  · decide

/-! ### Reset, and the events that enable nothing -/

/-- A phase on the bus is one of the three that wait for the transport. -/
theorem onBus_iff {p : Phase} : p.onBus = true ↔ p = .write ∨ p = .rdByte ∨ p = .rdBlk := by
  cases p <;> simp [Phase.onBus]

/-- Settles O15: each register of the reset state as written; that no byte of `RESP` is written is `respAt_nil`. -/
theorem resetStateIsReady : Obligations.ResetStateIsReady := by
  refine ⟨rfl, rfl, rfl, rfl, rfl, rfl, rfl, rfl, rfl, rfl, fun i => State.respAt_nil _ rfl i, rfl, rfl, rfl, ?_⟩
  exact ⟨rfl, rfl, rfl, rfl, rfl, rfl⟩

/-- A reset input ends the step in the reset registers, at a ready and at a busy engine (70_reset_and_hazards.md R390). -/
theorem step_rst (hi : s.inputs = .rst :: rest) : step s = .next (s.setInputs rest).resetRegs := by
  cases hr : s.ready with
  | true => simp [step, stepWith, hr, hi, requested, engineStep]
  | false =>
    have hreset : engineStep defaultParams .rst (s.setInputs rest) = .next (s.setInputs rest).resetRegs := rfl
    simp only [step, stepWith, hr, resume, hi, Bool.false_eq_true, if_false]
    rw [drive_cons hr hreset, drive_ready rfl]

/-- Settles O14: the step is `resetRegs`, written out register by register. -/
theorem resetIsTakenInEveryPhase : Obligations.ResetIsTakenInEveryPhase := by
  intro s rest hi
  rw [step_rst hi]
  simp only [State.resetRegs, State.reset, State.setInputs_phase, State.setInputs_trace, State.setInputs_inputs, onBus_iff]

/-- A tick outside a wait changes nothing (40_core.md R168). -/
theorem countTick_of_not_waiting (hw : s.phase.waiting = false) : s.countTick = s := by
  simp [State.countTick, hw]

/-- Settles O23: for each kind of event, by the phases in which it enables nothing. -/
theorem onlyEnabledEventsAct : Obligations.OnlyEnabledEventsAct := by
  refine ⟨?_, ?_, ?_, ?_⟩
  · rintro s ev hp hrst hans
    have htick : s.phase.waiting = false := by rcases hp with hp | hp | hp <;> rw [hp] <;> rfl
    cases ev with
    | rst => exact absurd rfl hrst
    | answer a => exact absurd rfl (hans a)
    | req c a0 a1 a2 =>
      have hbusy : s.ready = false := by rcases hp with hp | hp | hp <;> simp [State.ready, hp, Phase.ready]
      simp [engineStep, takeRequest, hbusy]
    | tick => simp [engineStep, countTick_of_not_waiting htick]
    | go => rcases hp with hp | hp | hp <;> simp [engineStep, takeGo, hp]
  · intro s a hp
    cases h : s.phase <;> simp_all [engineStep, takeAnswer]
  · intro s hp
    simp [engineStep, countTick_of_not_waiting (s := s) (by rw [hp]; rfl)]
  · rintro s (hp | hp)
    all_goals
      have hw : s.phase.waiting = false := by rw [hp]; rfl
      simp [engineStep, takeGo, hp, countTick_of_not_waiting hw]

/-! ### The accept -/

/-- Settles O11: a ready engine with no event to come stays in WRITE after the accept, and a busy one does not sample. -/
theorem everyCommandIsAcceptedWithItsFrame : Obligations.EveryCommandIsAcceptedWithItsFrame := by
  intro i s
  refine ⟨fun hr hi => ?_, exec_busy⟩
  rw [exec_ready hr, hi, drive_nil, State.latch, hi]

/-! ### A refusal stays marked -/

/-- What the engine's steps at the events of a list keep, a run over that list keeps. -/
theorem drive_invariant_mem (P : State → Prop) (hin : ∀ s es, P s → P (s.setInputs es)) :
    ∀ es s t, (∀ ev ∈ es, ∀ s t, P s → Took G ev s t → P t) → P s → drive G es s = .next t → P t := by
  intro es
  induction es with
  | nil => intro s t _ hs h; cases h; exact hs
  | cons ev rest ih =>
    intro s t hstep hs h
    rcases drive_cons_next h with ⟨-, rfl⟩ | ⟨s', -, htook, h⟩
    · exact hs
    · exact ih s' t (fun ev hev => hstep ev (List.mem_cons_of_mem _ hev))
        (hstep ev List.mem_cons_self _ _ (hin s rest hs) htook) h

/-- No rule but reset clears REFUSED (10_state.md R43). -/
theorem took_refused (h : Took G ev s t) (hev : ev ≠ .rst) (hs : s.refused = true) : t.refused = true := by
  cases h with
  | reset => exact absurd rfl hev
  | refused => rfl
  | ticked => simpa using hs
  | _ => exact hs

/-- A run over events without a reset keeps REFUSED. -/
theorem drive_refused (hes : .rst ∉ es) (hs : s.refused = true) (h : drive G es s = .next t) : t.refused = true :=
  drive_invariant_mem (fun s => s.refused = true) (fun _ _ hs => hs) es s t
    (fun _ hev _ _ hs htook => took_refused htook (fun heq => hes (heq ▸ hev)) hs) hs h

/-- Settles O13: each way in which a step answers a next state keeps the mark. -/
theorem refusedIsSticky : Obligations.RefusedIsSticky := by
  intro s t hs hrst h
  rcases step_next h with ⟨-, -, rfl⟩ | ⟨i, ev, rest, hr, hi, -, h⟩ | ⟨ev, rest, -, hi, -, htook⟩ | ⟨-, h⟩
  · exact hs
  · rw [exec_ready (by simpa using hr), State.setInputs_inputs] at h
    refine drive_refused (fun hmem => hrst (hi ▸ List.mem_cons_of_mem ev hmem)) ?_ h
    exact hs
  · exact took_refused htook (fun heq => hrst (by simp [hi, heq])) hs
  · exact drive_refused hrst hs h

end Sys2Proof.Proofs.Registers

/-! PROOFS. What every step of the machine keeps: the invariant of the engine's registers and the transport handshake; and what the
invariant gives: no rule reads an unwritten register, and the caller reads an outcome exactly when it is valid. -/

namespace Sys2Proof.Proofs.Invariant

open Sys2Proof.Machine Sys2Proof.Proofs.Registers

variable {G : Params} {T : CommandTable} {s t : State} {ev : Input} {es : List Input} {c : CmdId} {e : CtEntry} {op : BusOp}
  {evs : List BusEvent}

/-! ### Phases -/

theorem waiting_eq_false_of_ready {p : Phase} (h : p.ready = true) : p.waiting = false := by
  revert h; cases p <;> simp [Phase.ready, Phase.waiting]

theorem waiting_eq_false_of_onBus {p : Phase} (h : p.onBus = true) : p.waiting = false := by
  revert h; cases p <;> simp [Phase.onBus, Phase.waiting]

theorem onBus_eq_false_of_ready {p : Phase} (h : p.ready = true) : p.onBus = false := by
  revert h; cases p <;> simp [Phase.ready, Phase.onBus]

theorem ready_eq_false_of_onBus {p : Phase} (h : p.onBus = true) : p.ready = false := by
  revert h; cases p <;> simp [Phase.onBus, Phase.ready]

theorem ne_idle_of_busy {p : Phase} (h : p.ready = false) : p ≠ .idle := by
  rintro rfl; cases h

/-! ### The conditions of a phase -/

theorem phaseOk_wait1 (hp : s.phase = .wait1) : s.phaseOk e ↔ s.resp = [] ∧ s.outcomeClear := by
  simp only [State.phaseOk, hp]

theorem phaseOk_write (hp : s.phase = .write) : s.phaseOk e ↔ s.resp = [] ∧ s.outcomeClear := by
  simp only [State.phaseOk, hp]

theorem phaseOk_rdByte (hp : s.phase = .rdByte) :
    s.phaseOk e ↔ s.resp = [] ∧ s.outcomeClear ∧ (e.rk = .byte ∨ (e.rk = .block ∧ e.disc = true)) := by
  simp only [State.phaseOk, hp]

theorem phaseOk_rdBlk (hp : s.phase = .rdBlk) : s.phaseOk e ↔ s.resp = [] ∧ s.outcomeClear ∧ e.rk = .block := by
  simp only [State.phaseOk, hp]

/-- In WAIT2 and in DECODE the command's read is done (10_state.md R32). -/
theorem phaseOk_read (hp : s.phase = .wait2 ∨ s.phase = .decode) :
    s.phaseOk e ↔ s.outcomeClear ∧
      ((e.rk = .byte ∧ s.rb.written ∧ s.resp = []) ∨ (e.rk = .block ∧ s.resp.length ≤ e.rlen.toNat)) := by
  rcases hp with hp | hp <;> simp only [State.phaseOk, hp]

theorem phaseOk_done (hp : s.phase = .done) : s.phaseOk e ↔ s.outcomeOk := by
  simp only [State.phaseOk, hp]

/-- In the course of a command no outcome register is written (40_core.md R162). -/
theorem outcomeClear_of_busy (hb : s.ready = false) (hs : s.phaseOk e) : s.outcomeClear := by
  unfold State.ready at hb
  cases hp : s.phase with
  | idle => rw [hp] at hb; cases hb
  | done => rw [hp] at hb; cases hb
  | write => exact ((phaseOk_write hp).mp hs).2
  | wait1 => exact ((phaseOk_wait1 hp).mp hs).2
  | rdByte => exact ((phaseOk_rdByte hp).mp hs).2.1
  | rdBlk => exact ((phaseOk_rdBlk hp).mp hs).2.1
  | wait2 => exact ((phaseOk_read (.inl hp)).mp hs).1
  | decode => exact ((phaseOk_read (.inr hp)).mp hs).1

theorem written_holds {α : Type} (v : α) : (Reg.holds v).written := nofun

theorem outcomeOk_takeBusError (d : Diag) (h : s.outcomeClear) : (s.takeBusError d).outcomeOk := by
  obtain ⟨-, hresult, -⟩ := h
  exact ⟨hresult, written_holds d⟩

theorem outcomeOk_finish (v : Verdict) (h : s.outcomeClear) : (s.finish v).outcomeOk := by
  obtain ⟨-, hresult, hdiag⟩ := h
  cases v with
  | ok r => exact ⟨written_holds r, hdiag⟩
  | noData => exact ⟨hresult, hdiag⟩
  | invalidReading => exact ⟨hresult, hdiag⟩

/-! ### The latched request -/

/-- The registers that accept writes and no later step of the command changes (10_state.md R33 to R35). -/
def request (s : State) : Reg CmdId × Reg Word × Reg Word × Reg Word × Reg Frame :=
  (s.cmd, s.arg0, s.arg1, s.arg2, s.frame)

theorem request_eq_iff :
    request t = request s ↔
      t.cmd = s.cmd ∧ t.arg0 = s.arg0 ∧ t.arg1 = s.arg1 ∧ t.arg2 = s.arg2 ∧ t.frame = s.frame := by
  simp only [request, Prod.mk.injEq]

/-- A step that keeps the request and reaches a phase whose conditions hold keeps the agreement of request and phase. -/
theorem latchedOk_of_request (h : s.latchedOk T) (hp : s.phase ≠ .idle) (hq : request t = request s)
    (hphase : ∀ c e, s.cmd = .holds c → lookup T c = some e → s.phaseOk e → t.phaseOk e) : t.latchedOk T := by
  obtain ⟨c, e, a0, a1, a2, hc, he, h0, h1, h2, hf, hs⟩ := h.resolve_left hp
  obtain ⟨qc, q0, q1, q2, qf⟩ := request_eq_iff.mp hq
  exact .inr ⟨c, e, a0, a1, a2, qc.trans hc, he, q0.trans h0, q1.trans h1, q2.trans h2, qf.trans hf, hphase c e hc he hs⟩

/-- The same for a step whose rule names the latched command and its entry. -/
theorem latchedOk_of_entry (h : s.latchedOk T) (hp : s.phase ≠ .idle) (hc : s.cmd = .holds c) (he : lookup T c = some e)
    (hq : request t = request s) (hphase : s.phaseOk e → t.phaseOk e) : t.latchedOk T :=
  latchedOk_of_request h hp hq fun _ _ hc' he' hs => by
    cases hc.symm.trans hc'
    cases he.symm.trans he'
    exact hphase hs

/-- Outside IDLE a command of the table is latched with its argument and frame, and the phase's conditions hold. -/
theorem exists_latched (h : Inv T s) (hp : s.phase ≠ .idle) :
    ∃ c e m f, s.cmd = .holds c ∧ lookup T c = some e ∧ s.arg1 = .holds m ∧ s.frame = .holds f ∧ s.phaseOk e := by
  obtain ⟨c, e, _, a1, _, hc, he, -, h1, -, hf, hs⟩ := h.latched.resolve_left hp
  exact ⟨c, e, a1, _, hc, he, h1, hf, hs⟩

/-! ### The invariant, operation by operation -/

theorem inv_setInputs (h : Inv T s) (es : List Input) : Inv T (s.setInputs es) :=
  ⟨h.dlyIdle, h.dlyBound, h.respCap, h.rcntResp, h.resultRange, h.latched⟩

theorem inv_note (h : Inv T s) (b : BusEvent) : Inv T (s.note b) :=
  ⟨h.dlyIdle, h.dlyBound, h.respCap, h.rcntResp, h.resultRange, h.latched⟩

theorem inv_resetRegs (s : State) : Inv T s.resetRegs where
  dlyIdle _ := rfl
  dlyBound := Nat.zero_le _
  respCap := Nat.zero_le _
  rcntResp := rfl
  resultRange _ hr := by cases hr
  latched := .inl rfl

theorem inv_latch (h : Inv T s) (hr : s.ready = true) (he : lookup T c = some e) (a0 a1 a2 : Word) :
    Inv T (s.latch c a0 a1 a2 (encodeFrame e a0 a1 a2)) where
  dlyIdle _ := h.dlyIdle (waiting_eq_false_of_ready hr)
  dlyBound := h.dlyBound
  respCap := Nat.zero_le _
  rcntResp := rfl
  resultRange _ hr := by cases hr
  latched := .inr ⟨c, e, a0, a1, a2, rfl, he, rfl, rfl, rfl, rfl, rfl, rfl, rfl, rfl⟩

theorem inv_refuse (h : Inv T s) (hr : s.ready = true) : Inv T s.refuse where
  dlyIdle _ := h.dlyIdle (waiting_eq_false_of_ready hr)
  dlyBound := h.dlyBound
  respCap := h.respCap
  rcntResp := h.rcntResp
  resultRange := h.resultRange
  latched := .inl rfl

theorem inv_dly (h : Inv T s) {d : BitVec 32} (hw : s.phase.waiting = true) (hd : d.toNat ≤ 255051) :
    Inv T { s with dly := d } where
  dlyIdle hw' := absurd (hw.symm.trans hw') Bool.noConfusion
  dlyBound := hd
  respCap := h.respCap
  rcntResp := h.rcntResp
  resultRange := h.resultRange
  latched := h.latched

theorem inv_countTick (h : Inv T s) : Inv T s.countTick := by
  have hle := s.countTick_dly_le
  unfold State.countTick at hle ⊢
  split at hle
  · rename_i hc
    rw [if_pos hc]
    exact inv_dly h (Bool.and_eq_true_iff.mp hc).1 (hle.trans h.dlyBound)
  · rename_i hc
    rwa [if_neg hc]

theorem inv_takeBusError (h : Inv T s) (hp : s.phase.onBus = true) (d : Diag) : Inv T (s.takeBusError d) where
  dlyIdle _ := h.dlyIdle (waiting_eq_false_of_onBus hp)
  dlyBound := h.dlyBound
  respCap := h.respCap
  rcntResp := h.rcntResp
  resultRange := h.resultRange
  latched := latchedOk_of_request h.latched (ne_idle_of_busy (ready_eq_false_of_onBus hp)) rfl fun _ _ _ _ hs =>
    outcomeOk_takeBusError d (outcomeClear_of_busy (ready_eq_false_of_onBus hp) hs)

/-- A phase entered in the course of a command, with a new count of at most 255051 where the phase is a wait. -/
theorem inv_enter {p : Phase} {d : BitVec 32} {rb : Reg Byte} {tr : List BusEvent} (h : Inv T s)
    (hd : p.waiting = false → d = 0) (hb : d.toNat ≤ 255051)
    (hl : State.latchedOk T { s with phase := p, dly := d, rb := rb, trace := tr }) :
    Inv T { s with phase := p, dly := d, rb := rb, trace := tr } where
  dlyIdle := hd
  dlyBound := hb
  respCap := h.respCap
  rcntResp := h.rcntResp
  resultRange := h.resultRange
  latched := hl

/-- A delay register loaded with `n` holds at most `n` (log 20). -/
theorem ofNat_le {n m : Nat} (h : n ≤ m) : (BitVec.ofNat 32 n).toNat ≤ m := by
  rw [BitVec.toNat_ofNat]; exact (Nat.mod_le _ _).trans h

theorem inv_settle (h : Inv commandTable s) (hp : s.phase = .write) (hc : s.cmd = .holds c)
    (he : lookup commandTable c = some e) (f : Frame) : Inv commandTable (s.loadDelay .wait1 (settle e f)) :=
  inv_enter h nofun (ofNat_le (settle_le he f)) <|
    latchedOk_of_entry h.latched (by simp [hp]) hc he rfl (phaseOk_write hp).mp

theorem inv_readByte (h : Inv commandTable s) (hp : s.phase = .rdByte) (hc : s.cmd = .holds c)
    (he : lookup commandTable c = some e) (hk : e.rk = .byte) (b : Byte) :
    Inv commandTable ((s.setRb b).beginHold e) :=
  inv_enter (s := s) h nofun (ofNat_le ((hold_le he).trans (by decide))) <|
    latchedOk_of_entry h.latched (by simp [hp]) hc he rfl fun hs => by
      obtain ⟨hresp, hclear, -⟩ := (phaseOk_rdByte hp).mp hs
      exact ⟨hclear, .inl ⟨hk, written_holds b, hresp⟩⟩

theorem inv_discarded (h : Inv T s) (hp : s.phase = .rdByte) (hc : s.cmd = .holds c) (he : lookup T c = some e)
    (hk : e.rk ≠ .byte) (b : Byte) : Inv T ((s.setRb b).issueBlock e) :=
  inv_enter (s := s) h (fun _ => h.dlyIdle (by rw [hp]; rfl)) h.dlyBound <|
    latchedOk_of_entry h.latched (by simp [hp]) hc he rfl fun hs => by
      obtain ⟨hresp, hclear, hread⟩ := (phaseOk_rdByte hp).mp hs
      obtain ⟨hblock, -⟩ := hread.resolve_left hk
      exact ⟨hresp, hclear, hblock⟩

theorem inv_issueByte (h : Inv T s) (hp : s.phase = .wait1) (hd : s.dly = 0) (hc : s.cmd = .holds c)
    (he : lookup T c = some e) (hk : e.rk = .byte ∨ (e.rk = .block ∧ e.disc = true)) : Inv T s.issueByte :=
  inv_enter h (fun _ => hd) h.dlyBound <|
    latchedOk_of_entry h.latched (by simp [hp]) hc he rfl fun hs => by
      obtain ⟨hresp, hclear⟩ := (phaseOk_wait1 hp).mp hs
      exact ⟨hresp, hclear, hk⟩

theorem inv_issueBlock (h : Inv T s) (hp : s.phase = .wait1) (hd : s.dly = 0) (hc : s.cmd = .holds c)
    (he : lookup T c = some e) (hk : e.rk = .block) : Inv T (s.issueBlock e) :=
  inv_enter h (fun _ => hd) h.dlyBound <|
    latchedOk_of_entry h.latched (by simp [hp]) hc he rfl fun hs => by
      obtain ⟨hresp, hclear⟩ := (phaseOk_wait1 hp).mp hs
      exact ⟨hresp, hclear, hk⟩

theorem inv_toDecode (h : Inv T s) (hp : s.phase = .wait2) (hd : s.dly = 0) : Inv T s.toDecode :=
  inv_enter h (fun _ => hd) h.dlyBound <|
    latchedOk_of_request h.latched (by simp [hp]) rfl fun _ _ _ _ => (phaseOk_read (.inl hp)).mp

/-- The delivered block fits `RESP` and its length fits `RCNT`, since a legal row asks for at most 21 bytes (10_state.md R59). -/
theorem inv_readBlock (h : Inv commandTable s) (hp : s.phase = .rdBlk) (hc : s.cmd = .holds c)
    (he : lookup commandTable c = some e) {x : List Byte} (hx : x.length ≤ e.rlen.toNat) :
    Inv commandTable ((s.setResp x).beginHold e) where
  dlyIdle := nofun
  dlyBound := ofNat_le ((hold_le he).trans (by decide))
  respCap := hx.trans (rlen_le_respCap Builds.tableOk_commandTable he)
  rcntResp := Nat.mod_eq_of_lt (hx.trans_lt e.rlen.isLt)
  resultRange := h.resultRange
  latched := latchedOk_of_entry h.latched (by simp [hp]) hc he rfl fun hs => by
    obtain ⟨-, hclear, hk⟩ := (phaseOk_rdBlk hp).mp hs
    exact ⟨hclear, .inr ⟨hk, hx⟩⟩

/-- The end of a command with a verdict whose value is within its ranges (40_core.md R169, R176). -/
theorem inv_finish {v : Verdict} (h : Inv T s) (hb : s.ready = false) (hd : s.dly = 0)
    (hv : ∀ r, v = .ok r → r.inRange) : Inv T (s.finish v) where
  dlyIdle _ := hd
  dlyBound := h.dlyBound
  respCap := h.respCap
  rcntResp := h.rcntResp
  resultRange r hr := by
    cases v with
    | ok r' => cases hr; exact hv r rfl
    | noData => exact h.resultRange r hr
    | invalidReading => exact h.resultRange r hr
  latched := latchedOk_of_request h.latched (ne_idle_of_busy hb) rfl fun _ _ _ _ hs =>
    outcomeOk_finish v (outcomeClear_of_busy hb hs)

/-! ### Every step keeps the invariant -/

/-- Every rule of the engine keeps the invariant. -/
theorem took_inv (h : Inv commandTable s) (htook : Took defaultParams ev s t) : Inv commandTable t := by
  cases htook with
  | reset => exact inv_resetRegs s
  | accepted _ c a0 a1 a2 e hr he => exact inv_latch h hr he a0 a1 a2
  | refused _ c a0 a1 a2 hr he => exact inv_refuse h hr
  | notSampled => exact h
  | ticked => exact inv_countTick h
  | failed _ d hp => exact inv_takeBusError (inv_note h _) hp d
  | wrote _ x c e f hp hc he hf => exact inv_settle (inv_note h _) hp hc he f
  | readByte _ b x c e hp hc he hk => exact inv_readByte (inv_note h _) hp hc he hk b
  | discarded _ b x c e hp hc he hk => exact inv_discarded (inv_note h _) hp hc he hk b
  | readBlock _ x c e hp hc he hl => exact inv_readBlock (inv_note h _) hp hc he hl
  | unsolicited => exact h
  | endedWrite _ c e hp hd hc he hk =>
    exact inv_finish h (by rw [State.ready, hp]; rfl) hd fun r hr => by cases hr; trivial
  | toByte _ c e hp hd hc he hk => exact inv_issueByte h hp hd hc he hk
  | toBlock _ c e hp hd hc he hk => exact inv_issueBlock h hp hd hc he hk
  | heldOut _ hp hd => exact inv_toDecode h hp hd
  | decoded _ c e v hp hc he hv =>
    exact inv_finish h (by rw [State.ready, hp]; rfl) (h.dlyIdle (by rw [hp]; rfl)) fun r hr =>
      decodePayload_inRange (hr ▸ hv)
  | notEnabled => exact h

/-- Settles O46: by the rules of the engine, through the run of a command. -/
theorem stepsKeepTheInvariant : Obligations.StepsKeepTheInvariant := fun _ _ h hstep =>
  step_invariant (Inv commandTable) (fun _ es h => inv_setInputs h es) (fun _ _ _ h htook => took_inv h htook) h hstep

/-! ### The transport handshake -/

theorem outstanding_append (evs : List BusEvent) (b : BusEvent) :
    outstanding (evs ++ [b]) = portAfter (outstanding evs) b := by
  simp [outstanding]

theorem outstanding_issued (h : outstanding evs = some none) : outstanding (evs ++ [.issued op]) = some (some op) := by
  rw [outstanding_append, h]; rfl

theorem outstanding_answered (h : outstanding evs = some (some op)) (a : Answer) :
    outstanding (evs ++ [.answered a]) = some none := by
  rw [outstanding_append, h]; rfl

theorem outstanding_abandoned (h : outstanding evs = some (some op)) : outstanding (evs ++ [.abandoned]) = some none := by
  rw [outstanding_append, h]; rfl

/-- No operation is presented outside the three bus phases. -/
theorem tOp_eq_none (hp : s.phase.onBus = false) : s.tOp T = none := by
  unfold State.tOp
  cases h : s.phase <;> simp [h, Phase.onBus] at hp ⊢

/-- In a bus phase an operation is presented: the frame and the command are latched. -/
theorem exists_tOp (h : Inv T s) (hp : s.phase.onBus = true) : ∃ op, s.tOp T = some op := by
  obtain ⟨c, e, -, f, hc, he, -, hf, -⟩ := exists_latched h (ne_idle_of_busy (ready_eq_false_of_onBus hp))
  unfold State.tOp
  rcases onBus_iff.mp hp with hp | hp | hp
  · exact ⟨.wr4 .main f, by simp only [hp, hf]⟩
  · exact ⟨.rd1 .main, by simp only [hp]⟩
  · exact ⟨.rdn e.raddr e.rlen, by simp only [hp, hc, he, Option.map_some]⟩

/-- Outside the bus phases nothing is outstanding. -/
theorem outstanding_of_offBus (h : s.portOk T) (hp : s.phase.onBus = false) : outstanding s.trace = some none :=
  h.trans (congrArg some (tOp_eq_none hp))

/-- After the answer in a bus phase nothing is outstanding. -/
theorem outstanding_note_answered (hi : Inv T s) (h : s.portOk T) (hp : s.phase.onBus = true) (a : Answer) :
    outstanding (s.note (.answered a)).trace = some none := by
  obtain ⟨op, hop⟩ := exists_tOp hi hp
  exact outstanding_answered (h.trans (congrArg some hop)) a

/-- The handshake of a state outside the bus phases. -/
theorem portOk_of_offBus (h : outstanding evs = some none) (ht : t.trace = evs) (hp : t.phase.onBus = false) :
    t.portOk T := by
  rw [State.portOk, ht, h, tOp_eq_none hp]

/-- The handshake of a state that has just presented its operation. -/
theorem portOk_of_issued (h : outstanding evs = some none) (ht : t.trace = evs ++ [.issued op]) (hop : t.tOp T = some op) :
    t.portOk T := by
  rw [State.portOk, ht, hop, outstanding_issued h]

theorem tOp_issueBlock (hc : s.cmd = .holds c) (he : lookup T c = some e) :
    (s.issueBlock e).tOp T = some (.rdn e.raddr e.rlen) := by
  simp only [State.tOp, State.issueBlock_phase, State.issueBlock_cmd, hc, he, Option.map_some]

theorem portOk_resetRegs (hi : Inv T s) (h : s.portOk T) : s.resetRegs.portOk T := by
  refine portOk_of_offBus ?_ rfl rfl
  rw [State.resetRegs_trace]
  cases hp : s.phase.onBus with
  | false => simpa using outstanding_of_offBus h hp
  | true =>
    obtain ⟨op, hop⟩ := exists_tOp hi hp
    exact outstanding_abandoned (h.trans (congrArg some hop))

theorem portOk_countTick (h : s.portOk T) : s.countTick.portOk T := by
  have hop : s.countTick.tOp T = s.tOp T := by simp [State.tOp]
  rw [State.portOk, State.countTick_trace, hop]
  exact h

/-- Every rule of the engine keeps the handshake: it presents an operation only where none is outstanding, and leaves a bus phase
only with the answer or by reset. -/
theorem took_portOk (hi : Inv G.table s) (h : s.portOk G.table) (htook : Took G ev s t) : t.portOk G.table := by
  cases htook with
  | reset => exact portOk_resetRegs hi h
  | accepted _ c a0 a1 a2 e hr he =>
    exact portOk_of_issued (outstanding_of_offBus h (onBus_eq_false_of_ready hr)) rfl rfl
  | refused _ c a0 a1 a2 hr he =>
    exact portOk_of_offBus (outstanding_of_offBus h (onBus_eq_false_of_ready hr)) rfl rfl
  | notSampled => exact h
  | ticked => exact portOk_countTick h
  | failed _ d hp => exact portOk_of_offBus (outstanding_note_answered hi h hp _) rfl rfl
  | wrote _ x c e f hp => exact portOk_of_offBus (outstanding_note_answered hi h (by rw [hp]; rfl) _) rfl rfl
  | readByte _ b x c e hp => exact portOk_of_offBus (outstanding_note_answered hi h (by rw [hp]; rfl) _) rfl rfl
  | discarded _ b x c e hp hc he =>
    exact portOk_of_issued (outstanding_note_answered hi h (by rw [hp]; rfl) _) rfl (tOp_issueBlock hc he)
  | readBlock _ x c e hp => exact portOk_of_offBus (outstanding_note_answered hi h (by rw [hp]; rfl) _) rfl rfl
  | unsolicited => exact h
  | endedWrite _ c e hp => exact portOk_of_offBus (outstanding_of_offBus h (by rw [hp]; rfl)) rfl rfl
  | toByte _ c e hp => exact portOk_of_issued (outstanding_of_offBus h (by rw [hp]; rfl)) rfl rfl
  | toBlock _ c e hp hd hc he =>
    exact portOk_of_issued (outstanding_of_offBus h (by rw [hp]; rfl)) rfl (tOp_issueBlock hc he)
  | heldOut _ hp => exact portOk_of_offBus (outstanding_of_offBus h (by rw [hp]; rfl)) rfl rfl
  | decoded _ c e v hp => exact portOk_of_offBus (outstanding_of_offBus h (by rw [hp]; rfl)) rfl rfl
  | notEnabled => exact h

/-- Settles O49: by the rules of the engine, with the invariant, which says that a bus phase presents an operation. -/
theorem stepsKeepTheTransportHandshake : Obligations.StepsKeepTheTransportHandshake := fun _ _ hi h hstep =>
  (step_invariant (fun s => Inv commandTable s ∧ s.portOk commandTable)
    (fun _ es ⟨hi, h⟩ => ⟨inv_setInputs hi es, h⟩)
    (fun _ _ _ ⟨hi, h⟩ htook => ⟨took_inv hi htook, took_portOk hi h htook⟩) ⟨hi, h⟩ hstep).2

/-- Settles O47: a reset of the reset registers gives the invariant, and nothing is presented or outstanding. -/
theorem resetMeetsTheInvariant : Obligations.ResetMeetsTheInvariant :=
  ⟨inv_resetRegs State.reset, rfl⟩

/-! ### No step reads an unwritten register -/

/-- The outcome is a next state, or a fault that only a transport outside its contract causes. -/
def KeepsContract (o : Out) : Prop := (∀ r, o ≠ .refused r) ∧ ∀ f, o = .fault f → f.ofTransport = true

theorem keepsContract_next (s : State) : KeepsContract (.next s) := ⟨nofun, nofun⟩

theorem keepsContract_fault {f : Fault} (h : f.ofTransport = true) : KeepsContract (.fault f) :=
  ⟨nofun, fun _ hf => by cases hf; exact h⟩

theorem answerWrite_keepsContract (h : Inv G.table s) (hp : s.phase = .write) (a : Answer) :
    KeepsContract (answerWrite G a s) := by
  obtain ⟨c, e, -, f, hc, he, -, hf, -⟩ := exists_latched h (by simp [hp])
  cases a with
  | fail d => exact keepsContract_next _
  | ok x =>
    rw [answerWrite, withEntry_eq _ hc he, withFrame_eq _ hf]
    exact keepsContract_next _

theorem answerByte_keepsContract (h : Inv G.table s) (hp : s.phase = .rdByte) (a : Answer) :
    KeepsContract (answerByte G a s) := by
  obtain ⟨c, e, -, -, hc, he, -, -, -⟩ := exists_latched h (by simp [hp])
  match a with
  | .fail d => exact keepsContract_next _
  | .ok [] => exact keepsContract_fault rfl
  | .ok (b :: x) =>
    rw [answerByte, withEntry_eq _ hc he]
    split <;> exact keepsContract_next _

theorem answerBlock_keepsContract (h : Inv G.table s) (hp : s.phase = .rdBlk) (a : Answer) :
    KeepsContract (answerBlock G a s) := by
  obtain ⟨c, e, -, -, hc, he, -, -, -⟩ := exists_latched h (by simp [hp])
  cases a with
  | fail d => exact keepsContract_next _
  | ok x =>
    rw [answerBlock, withEntry_eq _ hc he]
    split
    · exact keepsContract_fault rfl
    · exact keepsContract_next _

theorem takeAnswer_keepsContract (h : Inv G.table s) (a : Answer) : KeepsContract (takeAnswer G a s) := by
  unfold takeAnswer
  split
  · exact answerWrite_keepsContract h ‹_› a
  · exact answerByte_keepsContract h ‹_› a
  · exact answerBlock_keepsContract h ‹_› a
  all_goals exact keepsContract_next s

theorem exitWait1_keepsContract (h : Inv G.table s) (hp : s.phase = .wait1) : KeepsContract (exitWait1 G s) := by
  obtain ⟨c, e, -, -, hc, he, -, -, -⟩ := exists_latched h (by simp [hp])
  rw [exitWait1, withEntry_eq _ hc he]
  split
  · exact keepsContract_next _
  · exact keepsContract_next _
  · split <;> exact keepsContract_next _

/-- In DECODE every register that the format of the default table reads is written (10_state.md R60; 40_core.md R187): RB for a
byte read, and no block row has the byte format. -/
theorem decodeStep_keepsContract (h : Inv commandTable s) (hp : s.phase = .decode) :
    KeepsContract (decodeStep defaultParams s) := by
  obtain ⟨c, e, m, -, hc, he, h1, -, hs⟩ := exists_latched h (by simp [hp])
  obtain ⟨-, hread⟩ := (phaseOk_read (.inr hp)).mp hs
  have hrb : e.fmt = .byte → s.rb ≠ .unwritten := by
    intro hfmt
    rcases hread with ⟨-, hrb, -⟩ | ⟨hk, -⟩
    · exact hrb
    · exact absurd hfmt (fmt_ne_byte_of_block he hk)
  have harg : s.arg1 ≠ .unwritten := by rw [h1]; exact written_holds m
  obtain ⟨v, hv⟩ := decodePayload_ok (F := Config.thermFn) h.rcntResp harg hrb
  rw [decodeStep, withEntry_eq _ hc he, defaultParams_thermFn, hv]
  exact keepsContract_next _

theorem takeGo_keepsContract (h : Inv commandTable s) : KeepsContract (takeGo defaultParams s) := by
  unfold takeGo
  split
  · split
    · exact exitWait1_keepsContract h ‹_›
    · exact keepsContract_next s
  · split <;> exact keepsContract_next _
  · exact decodeStep_keepsContract h ‹_›
  all_goals exact keepsContract_next s

theorem engineStep_keepsContract (h : Inv commandTable s) (ev : Input) : KeepsContract (engineStep defaultParams ev s) := by
  cases ev with
  | answer a => exact takeAnswer_keepsContract h a
  | go => exact takeGo_keepsContract h
  | _ => exact keepsContract_next _

theorem drive_keepsContract (h : Inv commandTable s) (es : List Input) : KeepsContract (drive defaultParams es s) := by
  induction es generalizing s with
  | nil => exact keepsContract_next s
  | cons ev rest ih =>
    cases hr : s.ready with
    | true => rw [drive_ready hr]; exact keepsContract_next s
    | false =>
      have hin := inv_setInputs h rest
      have hstep := engineStep_keepsContract hin ev
      cases hev : engineStep defaultParams ev (s.setInputs rest) with
      | next s' => rw [drive_cons hr hev]; exact ih (took_inv hin (engineStep_took hev))
      | fault f => simpa only [drive, hr, hev] using hev ▸ hstep
      | refused r => exact absurd hev (hstep.1 r)

theorem exec_keepsContract (h : Inv commandTable s) (i : Instr) : KeepsContract (exec i s) := by
  cases hr : s.ready with
  | false => rw [exec_busy hr]; exact keepsContract_next s
  | true =>
    obtain ⟨e, he, hf⟩ := lookup_id i
    rw [exec_ready hr, ← hf]
    exact drive_keepsContract (inv_latch h hr he _ _ _) _

/-- Settles O48: each way a step can go keeps the contract, from the invariant. -/
theorem noStepReadsAnUnwrittenRegister : Obligations.NoStepReadsAnUnwrittenRegister := by
  intro s h
  change KeepsContract (step s)
  unfold step stepWith
  split
  · split
    · exact keepsContract_next s
    · split
      · exact exec_keepsContract (inv_setInputs h _) _
      · exact engineStep_keepsContract (inv_setInputs h _) _
  · exact drive_keepsContract h s.inputs

/-! ### The caller's reads -/

/-- A read of the status answers the register's value or is the fault of an unwritten one. -/
theorem readStatus_ok_or_error (s : State) :
    (∃ st, s.readStatus = .ok st) ∨ s.readStatus = .error (.unwrittenRead .status) := by
  unfold State.readStatus; split
  · exact .inl ⟨_, rfl⟩
  · exact .inr rfl

theorem readResult_ok_or_error (s : State) :
    (∃ r, s.readResult = .ok r) ∨ s.readResult = .error (.unwrittenRead .result) := by
  unfold State.readResult; split
  · exact .inl ⟨_, rfl⟩
  · exact .inr rfl

theorem readDiag_ok_or_error (s : State) :
    (∃ d, s.readDiag = .ok d) ∨ s.readDiag = .error (.unwrittenRead .diag) := by
  unfold State.readDiag; split
  · exact .inl ⟨_, rfl⟩
  · exact .inr rfl

/-- In DONE the outcome registers hold exactly one of the four outcomes (60_exceptions.md R350). -/
theorem outcomeOk_of_done (h : Inv T s) (hp : s.phase = .done) : s.outcomeOk := by
  obtain ⟨c, e, -, -, -, -, -, -, hs⟩ := exists_latched h (by simp [hp])
  exact (phaseOk_done hp).mp hs

theorem exists_of_written {α : Type} {r : Reg α} (h : r.written) : ∃ v, r = .holds v := by
  cases r with
  | unwritten => exact absurd rfl h
  | holds v => exact ⟨v, rfl⟩

theorem exists_readStatus_iff (h : Inv T s) : (∃ st, s.readStatus = .ok st) ↔ s.phase = .done := by
  refine ⟨fun ⟨st, hst⟩ => (readStatus_eq_ok.mp hst).1, fun hp => ?_⟩
  have hout := outcomeOk_of_done h hp
  cases hst : s.status with
  | unwritten => simp only [State.outcomeOk, hst] at hout
  | holds st => exact ⟨st, readStatus_eq_ok.mpr ⟨hp, hst⟩⟩

theorem exists_readResult_iff (h : Inv T s) :
    (∃ r, s.readResult = .ok r) ↔ s.phase = .done ∧ s.status = .holds .ok := by
  constructor
  · rintro ⟨r, hr⟩
    obtain ⟨hp, hst, -⟩ := readResult_eq_ok.mp hr
    exact ⟨hp, hst⟩
  · rintro ⟨hp, hst⟩
    have hout := outcomeOk_of_done h hp
    simp only [State.outcomeOk, hst] at hout
    obtain ⟨r, hr⟩ := exists_of_written hout.1
    exact ⟨r, readResult_eq_ok.mpr ⟨hp, hst, hr⟩⟩

theorem exists_readDiag_iff (h : Inv T s) :
    (∃ d, s.readDiag = .ok d) ↔ s.phase = .done ∧ s.status = .holds .busError := by
  constructor
  · rintro ⟨d, hd⟩
    obtain ⟨hp, hst, -⟩ := readDiag_eq_ok.mp hd
    exact ⟨hp, hst⟩
  · rintro ⟨hp, hst⟩
    have hout := outcomeOk_of_done h hp
    simp only [State.outcomeOk, hst] at hout
    obtain ⟨d, hd⟩ := exists_of_written hout.2
    exact ⟨d, readDiag_eq_ok.mpr ⟨hp, hst, hd⟩⟩

/-- Settles O50: the three reads by their conditions, each with the fault everywhere else. -/
theorem outcomeIsReadableExactlyWhenValid : Obligations.OutcomeIsReadableExactlyWhenValid := by
  intro s h
  refine ⟨exists_readStatus_iff h, fun st hst => (readStatus_eq_ok.mp hst).2, fun hp => ?_,
    exists_readResult_iff h, fun r hr => (readResult_eq_ok.mp hr).2.2, fun hp => ?_,
    exists_readDiag_iff h, fun d hd => (readDiag_eq_ok.mp hd).2.2, fun hp => ?_⟩
  · exact (readStatus_ok_or_error s).resolve_left (mt (exists_readStatus_iff h).mp hp)
  · exact (readResult_ok_or_error s).resolve_left (mt (exists_readResult_iff h).mp hp)
  · exact (readDiag_ok_or_error s).resolve_left (mt (exists_readDiag_iff h).mp hp)

end Sys2Proof.Proofs.Invariant

/-! PROOFS. The statement about the second bus address: a command whose block read has no discarded byte before it ends with the verdict
of its format, its read presented at its entry's address; `ledbar_get` is the one that reads at `ADDR_ALT`. -/

namespace Sys2Proof.Proofs.Memory

open Sys2Proof.Machine Sys2Proof.Claims

variable {G : Params} {s : State} {i : Instr} {c : CmdId} {e : CtEntry} {v : Verdict} {rest : List Input}

/-! ### A command that reads a block and discards no byte -/

/-- What RESULT holds at the end of a command that was accepted, with its verdict: a value only with `OK` (40_core.md R162, R176). -/
def resultOf (v : Verdict) : Reg Result :=
  match v with
  | .ok r => .holds r
  | .noData | .invalidReading => .unwritten

/-- The end of a command whose RESULT accept has left unwritten: the verdict's status and value. -/
theorem finish_of_unwritten (h : s.result = .unwritten) :
    s.finish v = { s with phase := .done, status := .holds v.status, result := resultOf v } := by
  cases v with
  | ok r => rfl
  | noData => rw [State.finish, h]; rfl
  | invalidReading => rw [State.finish, h]; rfl

/-- A presented block read that delivers its bytes, at least the hold ticks and the decode end a command whose format answers `v` of
those bytes (40_core.md R170, R174, R176). -/
theorem drive_lastRead {bs : List Byte} {n : Nat} (hp : s.phase = .rdBlk) (hc : s.cmd = .holds c)
    (he : lookup G.table c = some e) (hn : ticks e.d2 ≤ n) (hl : bs.length ≤ e.rlen.toNat)
    (hv : ∀ t : State, t.arg1 = s.arg1 → t.resp = bs → t.rcnt.toNat = t.resp.length →
      decodePayload G.thermFn e.fmt t = .ok v) :
    drive G (lastRead bs n rest) s =
      .next (((((s.note (.answered (.ok bs))).setResp bs).loadDelay .decode 0).setInputs rest).finish v) := by
  have hcount : (BitVec.ofNat 5 bs.length).toNat = bs.length := Nat.mod_eq_of_lt (hl.trans_lt e.rlen.isLt)
  rw [lastRead, drive_readBlock hp hc he hl]
  exact drive_held rfl hc he (Invariant.ofNat_le hn) rfl (hv _ rfl rfl hcount)

/-- A command that reads a block without a discarded byte ends with its format's verdict after the settle and hold ticks, its block
read presented at its entry's address (40_core.md R164, R169, R174, R176; 20_memory.md R82). -/
theorem exec_readBlock {x bs : List Byte} {m n : Nat} (hr : s.ready = true) (he : lookup commandTable i.id = some e)
    (hk : e.rk = .block) (hx : e.disc = false) (hm : settle e (encode i) ≤ m) (hn : ticks e.d2 ≤ n)
    (hl : bs.length ≤ e.rlen.toNat) (hi : s.inputs = settled x m (lastRead bs n rest))
    (hv : ∀ t : State, t.arg1 = .holds i.arg1 → t.resp = bs → t.rcnt.toNat = t.resp.length →
      decodePayload Config.thermFn e.fmt t = .ok v) :
    exec i s = .next (readBlock s i.id i.arg0 i.arg1 i.arg2 (encode i) s.rb bs v.status (resultOf v)
      (busWrite (encode i) x ++ busBlock e.raddr e.rlen bs) rest) := by
  have hsettle : settle e (encode i) < 2 ^ 32 := (settle_le he _).trans_lt (by norm_num)
  rw [exec_ready hr, hi, settled,
    drive_settled (by simp) (by simp) he (by simp) hm hsettle,
    drive_toBlock (by simp) (by simp) (by simp) he hk hx,
    drive_lastRead (by simp) (by simp) he hn hl hv, finish_of_unwritten (by simp)]
  simp [readBlock, busWrite, busBlock]

/-! ### The little-endian composite -/

/-- The composite of 40_core.md R182 with its high byte shifted by a multiplication. -/
theorem compXor16_eq (lo hi : Byte) : compXor16 lo hi = lo.toNat ^^^ hi.toNat * 256 := by
  rw [compXor16, Nat.shiftLeft_eq]

/-- A block of at least three bytes is decoded to the little-endian composite (40_core.md R182, R187). -/
theorem decodePayload_u16le {F : ThermFn} {b0 lo hi : Byte} {more : List Byte} (hs : s.resp = b0 :: lo :: hi :: more)
    (hl : s.rcnt.toNat = s.resp.length) :
    decodePayload F .u16le s = .ok (.ok (.u16 (BitVec.ofNat 16 (compXor16 lo hi)))) := by
  have hlong : s.short .u16le = false := by simp [State.short, bytesNeeded, hl, hs]
  simp [decodePayload, hlong, decodeBlock, decodeU16le, hs]

/-- Settles O32: `ledbar_get` reads a block of up to five bytes at `ADDR_ALT` 200 ms after its frame, and decodes it by `F_U16LE`. -/
theorem ledBarGetCompletes : Obligations.LedBarGetCompletes := by
  intro s a0 a1 a2 x more b0 lo hi m n rest hr hm hmore hin
  have hfit : (b0 :: lo :: hi :: more).length ≤ 5 := Nat.add_le_add_right hmore 3
  rw [← compXor16_eq]
  exact exec_readBlock (i := .ledbarGet a0 a1 a2) hr rfl rfl rfl hm n.zero_le hfit hin
    fun _ _ hresp hrcnt => decodePayload_u16le hresp hrcnt

end Sys2Proof.Proofs.Memory

/-! PROOFS. The statements about the encoding (30_encoding.md): frames and the commands read from them, the bytes of an argument, table
words, and the assembler. Each of the six layouts of R116 is read back from the frame it is written to; a command's frame, the range of
its arguments, the reader of its opcode's frames and the operands it takes are those of its layout. -/

namespace Sys2Proof.Proofs.Encoding

open Sys2Proof.Machine

variable {i : Instr} {f : Frame} {k : Word → Word → Word → Instr} {opc : Byte} {a0 a1 a2 : Word} {ks : List OperandKind}
  {ws : List Word} {xs : List Operand}

/-! ### Layouts -/

/-- The six frame layouts (30_encoding.md R116). -/
inductive Layout where
  | l0
  | lp
  | lpv
  | lpvw
  | lplh
  | lpm

namespace Layout

variable {l : Layout}

/-- The frame of a layout, with an opcode and the arguments (30_encoding.md R116). -/
def frame (l : Layout) (opc : Byte) (a0 a1 a2 : Word) : Frame :=
  match l with
  | .l0 => ⟨opc, 0, 0, 0⟩
  | .lp => ⟨opc, lo8 a0, 0, 0⟩
  | .lpv => ⟨opc, lo8 a0, lo8 a1, 0⟩
  | .lpvw => ⟨opc, lo8 a0, lo8 a1, lo8 a2⟩
  | .lplh => ⟨opc, lo8 a0, lo8 a1, hi8 a1⟩
  | .lpm => ⟨opc, lo8 a0, modeBit a1, 0⟩

/-- The arguments that the layout's frame carries whole (30_encoding.md R113 to R116). -/
def fits (l : Layout) (a0 a1 a2 : Word) : Bool :=
  match l with
  | .l0 => isAbsent a0 && isAbsent a1 && isAbsent a2
  | .lp => fitsByte a0 && isAbsent a1 && isAbsent a2
  | .lpv => fitsByte a0 && fitsByte a1 && isAbsent a2
  | .lpvw => fitsByte a0 && fitsByte a1 && fitsByte a2
  | .lplh => fitsByte a0 && fitsPair a1 && isAbsent a2
  | .lpm => fitsByte a0 && isMode a1 && isAbsent a2

/-- The model's reader of the layout's frames. -/
def read (l : Layout) : (Word → Word → Word → Instr) → Frame → Except DecodeError Instr :=
  match l with
  | .l0 => readL0
  | .lp => readLP
  | .lpv => readLPV
  | .lpvw => readLPVW
  | .lplh => readLPLH
  | .lpm => readLPM

/-- One operand for each non-`Z` selector of the layout; a mode may also be written by name (30_encoding.md R126). -/
def operandKinds (l : Layout) : List OperandKind :=
  match l with
  | .l0 => []
  | .lp => [.plain]
  | .lpv => [.plain, .plain]
  | .lpvw | .lplh => [.plain, .plain, .plain]
  | .lpm => [.plain, .mode]

/-- Arguments that fit a layout are read back from its frame. -/
theorem read_frame (h : l.fits a0 a1 a2 = true) : l.read k (l.frame opc a0 a1 a2) = .ok (k a0 a1 a2) := by
  cases l
  all_goals
    simp only [fits, Bool.and_eq_true] at h
    obtain ⟨⟨h0, h1⟩, h2⟩ := h
  case l0 => simp [read, frame, readL0, isAbsent_eq h0, isAbsent_eq h1, isAbsent_eq h2]
  case lp => simp [read, frame, readLP, widen_lo8 h0, isAbsent_eq h1, isAbsent_eq h2]
  case lpv => simp [read, frame, readLPV, widen_lo8 h0, widen_lo8 h1, isAbsent_eq h2]
  case lpvw => simp [read, frame, readLPVW, widen_lo8 h0, widen_lo8 h1, widen_lo8 h2]
  case lplh => simp [read, frame, readLPLH, widen_lo8 h0, widen16_lo8_hi8 h1, isAbsent_eq h2]
  case lpm => simp [read, frame, readLPM, widen_lo8 h0, widen_modeBit h1, isAbsent_eq h2]

/-- A reader that checks the padding answers only where the check holds. -/
theorem guarded_eq_ok {P : Prop} [Decidable P] {err : DecodeError} {j : Instr}
    (h : (if P then Except.ok j else .error err) = .ok i) : P ∧ i = j := by
  split at h <;> cases h
  exact ⟨‹P›, rfl⟩

/-- What a layout reads from a frame fits the layout, whose frame of it is the frame that was read. -/
theorem exists_of_read (h : l.read k f = .ok i) :
    ∃ a0 a1 a2, i = k a0 a1 a2 ∧ l.fits a0 a1 a2 = true ∧ l.frame f.opcode a0 a1 a2 = f := by
  obtain ⟨opc, p1, p2, p3⟩ := f
  cases l with
  | l0 =>
    obtain ⟨⟨rfl, rfl, rfl⟩, hi⟩ := guarded_eq_ok h
    exact ⟨0, 0, 0, hi, rfl, rfl⟩
  | lp =>
    obtain ⟨⟨rfl, rfl⟩, hi⟩ := guarded_eq_ok h
    exact ⟨_, _, _, hi, by simp [fits, lo8_widen, isAbsent], by simp [frame, lo8_widen]⟩
  | lpv =>
    obtain ⟨rfl, hi⟩ := guarded_eq_ok h
    exact ⟨_, _, _, hi, by simp [fits, lo8_widen, isAbsent], by simp [frame, lo8_widen]⟩
  | lpvw =>
    cases h
    exact ⟨_, _, _, rfl, by simp [fits, lo8_widen], by simp [frame, lo8_widen]⟩
  | lplh =>
    cases h
    exact ⟨_, _, _, rfl, by simp [fits, lo8_widen, lo8_hi8_widen16, isAbsent], by simp [frame, lo8_widen, lo8_hi8_widen16]⟩
  | lpm =>
    obtain ⟨⟨hmode, rfl⟩, hi⟩ := guarded_eq_ok h
    exact ⟨_, _, _, hi, by simp [fits, lo8_widen, modeBit_widen p2 hmode, isAbsent],
      by simp [frame, lo8_widen, modeBit_widen p2 hmode]⟩

/-- Arguments that fit a layout are its operands, one for each of its positions, and 0 beyond them (30_encoding.md R126). -/
theorem getD_take_of_fits (h : l.fits a0 a1 a2 = true) :
    ([a0, a1, a2].take l.operandKinds.length).getD 0 0 = a0 ∧ ([a0, a1, a2].take l.operandKinds.length).getD 1 0 = a1 ∧
      ([a0, a1, a2].take l.operandKinds.length).getD 2 0 = a2 := by
  cases l
  all_goals
    simp only [fits, Bool.and_eq_true] at h
    obtain ⟨⟨h0, h1⟩, h2⟩ := h
  case l0 => exact ⟨(isAbsent_eq h0).symm, (isAbsent_eq h1).symm, (isAbsent_eq h2).symm⟩
  case lp => exact ⟨rfl, (isAbsent_eq h1).symm, (isAbsent_eq h2).symm⟩
  case lpv | lpm => exact ⟨rfl, rfl, (isAbsent_eq h2).symm⟩
  case lpvw | lplh => exact ⟨rfl, rfl, rfl⟩

end Layout

/-! ### The layout of each command -/

/-- The layout of a command (30_encoding.md R120). -/
def layoutOf (i : Instr) : Layout :=
  match i with
  | .version _ _ _ | .accXyz _ _ _ | .rtcGetTime _ _ _ | .irRead _ _ _ | .dustRead _ _ _ | .dustEn _ _ _ | .dustDis _ _ _
  | .encRead _ _ _ | .encEn _ _ _ | .encDis _ _ _ | .flowRead _ _ _ | .flowEn _ _ _ | .flowDis _ _ _ => .l0
  | .digitalRead _ _ _ | .analogRead _ _ _ | .thermRead _ _ _ | .ultrasonicRead _ _ _ | .ledbarGet _ _ _ | .fdInit _ _ _
  | .fdAllOn _ _ _ | .fdAllOff _ _ _ | .irRecvPin _ _ _ => .lp
  | .digitalWrite _ _ _ | .analogWrite _ _ _ | .dhtRead _ _ _ | .ledbarInit _ _ _ | .ledbarOrient _ _ _ | .ledbarLevel _ _ _
  | .ledbarToggleOne _ _ _ | .fdBrightness _ _ _ | .rgbInit _ _ _ => .lpv
  | .ledbarSetOne _ _ _ | .fdDigit _ _ _ | .fdSegment _ _ _ | .fdScore _ _ _ | .fdMonitor _ _ _ | .rgbStoreColor _ _ _
  | .rgbTest _ _ _ | .rgbPattern _ _ _ | .rgbModulo _ _ _ | .rgbLevel _ _ _ => .lpvw
  | .ledbarSet _ _ _ | .fdValue _ _ _ | .fdValueZeros _ _ _ => .lplh
  | .pinMode _ _ _ => .lpm

/-- The command with the id of `i` and the arguments given. -/
def withArgs (i : Instr) (a0 a1 a2 : Word) : Instr := (commandOf i.id a0 a1 a2).getD i

/-- A command is the one with its own id and arguments. -/
theorem withArgs_self (i : Instr) : withArgs i i.arg0 i.arg1 i.arg2 = i := by
  rw [withArgs, commandOf_request, Option.getD_some]

/-- Id 5 is `therm_read`'s (30_encoding.md R120). -/
theorem id_ne_five (h : ∀ p m u, i ≠ .thermRead p m u) : i.id ≠ 5 := by
  cases i with
  | thermRead p m u => exact absurd rfl (h p m u)
  | _ => simp [Instr.id]

/-- A command's frame is its layout's (30_encoding.md R110, R116). -/
theorem encode_withArgs (i : Instr) (a0 a1 a2 : Word) :
    encode (withArgs i a0 a1 a2) = (layoutOf i).frame (encode i).opcode a0 a1 a2 := by
  cases i <;> rfl

/-- A command but `therm_read`, whose model is not sent, is well-formed where its arguments fit its layout. -/
theorem wellFormed_withArgs (h : i.id ≠ 5) (a0 a1 a2 : Word) :
    (withArgs i a0 a1 a2).wellFormed = (layoutOf i).fits a0 a1 a2 := by
  cases i with
  | thermRead => exact absurd rfl h
  | _ => rfl

/-- The arguments of a well-formed command but `therm_read` fit its layout. -/
theorem fits_of_wellFormed (h : i.id ≠ 5) (hw : i.wellFormed = true) : (layoutOf i).fits i.arg0 i.arg1 i.arg2 = true := by
  rw [← wellFormed_withArgs h, withArgs_self, hw]

/-! ### The decoder by opcode -/

/-- A frame with the opcode of a command but `therm_read` is read by the command's layout (30_encoding.md R122). -/
theorem decodeFrame_of_opcode (h : i.id ≠ 5) (hf : f.opcode = (encode i).opcode) :
    decodeFrame f = (layoutOf i).read (withArgs i) f := by
  obtain ⟨opc, p1, p2, p3⟩ := f
  cases hf
  cases i with
  | thermRead => exact absurd rfl h
  | _ => rfl

/-- A frame whose opcode is not in the table is read as no command (30_encoding.md R121, R123). -/
theorem decodeFrame_of_not_mem (h : f.opcode ∉ commandTable.map (·.opc)) : decodeFrame f = .error .unknownOpcode := by
  have hne : ∀ n ∈ commandTable.map (·.opc.toNat), f.opcode.toNat ≠ n := by
    rintro n hn rfl
    obtain ⟨e, he, hopc⟩ := List.mem_map.mp hn
    exact h (List.mem_map.mpr ⟨e, he, BitVec.eq_of_toNat_eq hopc⟩)
  unfold decodeFrame
  split
  case h_45 => rfl
  all_goals exact absurd ‹f.opcode.toNat = _› (hne _ (by decide))

/-- Every opcode of the table is that of a command other than `therm_read`, which shares its own (30_encoding.md R122). -/
theorem exists_command_of_mem (h : opc ∈ commandTable.map (·.opc)) : ∃ i : Instr, i.id ≠ 5 ∧ opc = (encode i).opcode := by
  have zeroFrame : ∀ e ∈ commandTable, ∃ i ∈ (decodeFrame ⟨e.opc, 0, 0, 0⟩).toOption,
      i.id ≠ 5 ∧ e.opc = (encode i).opcode := by decide
  obtain ⟨e, he, rfl⟩ := List.mem_map.mp h
  obtain ⟨i, -, hi⟩ := zeroFrame e he
  exact ⟨i, hi⟩

/-- Whatever the decoder reads, it reads by the layout of a command with the frame's opcode. -/
theorem exists_reader_of_decodeFrame (h : decodeFrame f = .ok i) :
    ∃ j : Instr, j.id ≠ 5 ∧ f.opcode = (encode j).opcode ∧ (layoutOf j).read (withArgs j) f = .ok i := by
  by_cases hmem : f.opcode ∈ commandTable.map (·.opc)
  · obtain ⟨j, hj, hopc⟩ := exists_command_of_mem hmem
    exact ⟨j, hj, hopc, decodeFrame_of_opcode hj hopc ▸ h⟩
  · rw [decodeFrame_of_not_mem hmem] at h
    cases h

/-! ### Encoding and decoding -/

/-- A well-formed command but `therm_read` is read back from its frame. -/
theorem decodeFrame_encode (h : i.id ≠ 5) (hw : i.wellFormed = true) : decodeFrame (encode i) = .ok i := by
  have hframe := encode_withArgs i i.arg0 i.arg1 i.arg2
  rw [withArgs_self] at hframe
  rw [decodeFrame_of_opcode h rfl, hframe, Layout.read_frame (fits_of_wellFormed h hw), withArgs_self]

/-- Settles O1: a command by its layout; `therm_read` sends the frame of the `analog_read` of its pin. -/
theorem framesDecodeToTheirCommands : Obligations.FramesDecodeToTheirCommands := by
  refine ⟨fun i hw hi => decodeFrame_encode (id_ne_five hi) hw, fun p m u hw => ?_⟩
  obtain ⟨hp, -⟩ : fitsByte p = true ∧ isAbsent u = true := by simpa [Instr.wellFormed] using hw
  exact decodeFrame_encode (i := .analogRead p 0 0) (by simp [Instr.id]) (by simp [Instr.wellFormed, hp, isAbsent])

/-- What the decoder reads from a frame is well-formed and is encoded to the frame. -/
theorem wellFormed_and_encode_of_decodeFrame (h : decodeFrame f = .ok i) : i.wellFormed = true ∧ encode i = f := by
  obtain ⟨j, hj, hopc, hread⟩ := exists_reader_of_decodeFrame h
  obtain ⟨a0, a1, a2, rfl, hfits, hframe⟩ := Layout.exists_of_read hread
  rw [wellFormed_withArgs hj, encode_withArgs, ← hopc]
  exact ⟨hfits, hframe⟩

/-- Settles O2: only four bytes are decoded, as the frame of the command read. -/
theorem decodedBytesAreTheCommandsFrame : Obligations.DecodedBytesAreTheCommandsFrame := by
  intro bs i h
  unfold decode at h
  split at h
  · obtain ⟨hw, hf⟩ := wellFormed_and_encode_of_decodeFrame h
    exact ⟨hw, by rw [hf]; rfl⟩
  · cases h

/-- Settles O3, by evaluation of the decoder on each frame. -/
theorem sampleFramesDecode : Obligations.SampleFramesDecode :=
  ⟨rfl, rfl, rfl, rfl, rfl, rfl, rfl⟩

/-! ### Table words and argument bytes -/

/-- The value of a table word (30_encoding.md R111). -/
theorem toNat_word (f : Frame) :
    f.word.toNat = f.opcode.toNat * 2 ^ 24 + f.p1.toNat * 2 ^ 16 + f.p2.toNat * 2 ^ 8 + f.p3.toNat := by
  simp only [Frame.word, toNat_append_byte]
  omega

/-- A frame is read back from its table word (30_encoding.md R111). -/
theorem frameOfWord_word (f : Frame) : frameOfWord f.word = f := by
  change (⟨_, _, _, _⟩ : Frame) = ⟨f.opcode, f.p1, f.p2, f.p3⟩
  congr 1
  all_goals
    apply BitVec.eq_of_toNat_eq
    rw [BitVec.extractLsb'_toNat, toNat_word, Nat.shiftRight_eq_div_pow]
    omega

/-- A table word is decoded as the bytes of its frame. -/
theorem decodeTableWord_word (f : Frame) : decodeTableWord 32 f.word.toNat = (decode f.bytes).toOption := by
  rw [decodeTableWord, Nat.mod_eq_of_lt f.word.isLt, BitVec.ofNat_toNat, BitVec.setWidth_eq, frameOfWord_word]
  cases decode f.bytes <;> rfl

/-- Settles O4: the word is that of the frame of the four bytes. -/
theorem tableWordsAreFramesOpcodeFirst : Obligations.TableWordsAreFramesOpcodeFirst :=
  fun b0 b1 b2 b3 => decodeTableWord_word ⟨b0, b1, b2, b3⟩

/-- Settles O5, by the value of each extracted field. -/
theorem frameBytesTruncateTheArgument : Obligations.FrameBytesTruncateTheArgument := by
  intro v
  refine ⟨?_, ?_, ?_⟩
  · rw [lo8, BitVec.extractLsb'_toNat, Nat.shiftRight_zero]
  · rw [hi8, BitVec.extractLsb'_toNat, Nat.shiftRight_eq_div_pow]
  · rw [modeBit, BitVec.toNat_setWidth, BitVec.extractLsb'_toNat, Nat.shiftRight_zero]
    omega

/-! ### The assembler -/

/-- The operands a command takes: its layout's, except `therm_read`, which takes its model too (30_encoding.md R126). -/
def operandKindsOf (i : Instr) : List OperandKind :=
  match i with
  | .thermRead _ _ _ => [.plain, .model]
  | _ => (layoutOf i).operandKinds

/-- A mnemonic is assembled to its command, with the operands in the command's positions. -/
theorem assemble_mnemonicOf (i : Instr) (xs : List Operand) :
    assemble (mnemonicOf i) xs = withOperands (withArgs i) (operandKindsOf i) xs := by
  cases i <;> rfl

/-- A command's operands as written are its first arguments, as many as it takes. -/
theorem operandsOf_eq (i : Instr) :
    operandsOf i = ([i.arg0, i.arg1, i.arg2].take (operandKindsOf i).length).map numOperand := by
  cases i <;> rfl

/-- Words written as numbers are read back, in no more positions than there are. -/
theorem operandWords_map_numOperand (h : ws.length ≤ ks.length) : operandWords ks (ws.map numOperand) = some ws := by
  induction ws generalizing ks with
  | nil => cases ks <;> rfl
  | cons w ws ih =>
    cases ks with
    | nil => simp at h
    | cons k ks => simp [operandWords, operandWord_numOperand, ih (Nat.le_of_succ_le_succ h)]

/-- More operands than positions are refused (30_encoding.md R126). -/
theorem operandWords_eq_none (h : ks.length < xs.length) : operandWords ks xs = none := by
  induction xs generalizing ks with
  | nil => simp at h
  | cons x xs ih =>
    cases ks with
    | nil => rfl
    | cons k ks => simp [operandWords, ih (Nat.lt_of_succ_lt_succ h)]

/-- A mnemonic with numbers, no more than its command takes: the command of those words, an omitted one 0 (30_encoding.md R126). -/
theorem assemble_numbers (i : Instr) (ws : List Word) (h : ws.length ≤ (operandKindsOf i).length) :
    assemble (mnemonicOf i) (ws.map numOperand) = some (withArgs i (ws.getD 0 0) (ws.getD 1 0) (ws.getD 2 0)) := by
  rw [assemble_mnemonicOf, withOperands, operandWords_map_numOperand h, Option.map_some]

/-- A well-formed command but `therm_read` is assembled from its mnemonic and operands. -/
theorem assemble_operandsOf (h : i.id ≠ 5) (hw : i.wellFormed = true) : assemble (mnemonicOf i) (operandsOf i) = some i := by
  have hkinds : operandKindsOf i = (layoutOf i).operandKinds := by
    cases i with
    | thermRead => exact absurd rfl h
    | _ => rfl
  obtain ⟨h0, h1, h2⟩ := Layout.getD_take_of_fits (fits_of_wellFormed h hw)
  rw [operandsOf_eq, assemble_numbers i _ (List.length_take_le ..), hkinds, h0, h1, h2, withArgs_self]

/-- One operand more than a command takes is refused. -/
theorem assemble_extra (i : Instr) (x : Operand) : assemble (mnemonicOf i) (operandsOf i ++ [x]) = none := by
  have hlen : (operandsOf i).length = (operandKindsOf i).length := by cases i <;> rfl
  rw [assemble_mnemonicOf, withOperands, operandWords_eq_none (by simp [hlen]), Option.map_none]

/-- Settles O7: the operand counts are the layouts', and each spelling is the assembly of that many numbers or fewer. -/
theorem assemblerReadsEveryCommand : Obligations.AssemblerReadsEveryCommand := by
  refine ⟨fun i hw hi => assemble_operandsOf (id_ne_five hi) hw, fun p m _ => ?_, fun p v w => ?_, assemble_extra⟩
  · exact assemble_numbers (.thermRead p m 0) [p, m] (le_refl 2)
  · have hthree : 3 ≤ 3 := le_refl 3
    have htwo : 2 ≤ 3 := Nat.le_succ 2
    exact ⟨assemble_numbers (.ledbarSet p v w) [p, v, w] hthree, assemble_numbers (.ledbarSet p v w) [p, v] htwo,
      assemble_numbers (.fdValue p v w) [p, v, w] hthree, assemble_numbers (.fdValue p v w) [p, v] htwo,
      assemble_numbers (.fdValueZeros p v w) [p, v, w] hthree, assemble_numbers (.fdValueZeros p v w) [p, v] htwo⟩

/-! ### The placed frame -/

/-- A state with a request placed is ready. -/
theorem ready_present (j : Option Instr) (s : State) : (present j s).ready = true := by
  change (if s.ready then s.phase else .idle).ready = true
  split
  case isTrue hr => exact hr
  case isFalse => rfl

/-- Settles O9: the placed request is that of the command read, the first event at a ready engine. -/
theorem stepRunsThePlacedFrame : Obligations.StepRunsThePlacedFrame := by
  intro s w i h
  rw [State.withFetchWord, h, step, Builds.stepWith_request (i := i) (rest := s.inputs) (ready_present (some i) s) rfl]
  rfl

end Sys2Proof.Proofs.Encoding

/-! PROOFS. The statements about every order of the events: the engine's steps compute the reference semantics `execute`, and
a command takes its minimum ticks. `remaining` is what `execute` still has to do in each phase of the engine; `Refines` ties the
engine's state to it, and every rule of the engine keeps it. -/

namespace Sys2Proof.Proofs.Refinement

open Sys2Proof.Machine Sys2Proof.Claims Sys2Proof.Proofs.Invariant Sys2Proof.Proofs.Registers Sys2Proof.Proofs.Memory

variable {F : ThermFn} {s t : State} {ev : Input} {i : Instr} {e : CtEntry} {a1 : Word} {pre bus : List BusEvent}
  {op : BusOp} {rb rb' : Reg Byte} {as : List Answer} {w : Nat} {fin : Finished}

/-! ### What the reference semantics answers -/

/-- `execute` after an acknowledged frame write goes on with the reads. -/
theorem execute_ok (he : lookup commandTable i.id = some e) (hf : encodeFrame e i.arg0 i.arg1 i.arg2 = encode i)
    (x : List Byte) :
    execute defaultParams i.id i.arg0 i.arg1 i.arg2 (.ok x :: as) =
      refReads Config.thermFn e i.arg1 as [.issued (.wr4 .main (encode i)), .answered (.ok x)] (settle e (encode i)) := by
  simp only [execute, defaultParams_table, defaultParams_thermFn, he, hf]

/-- `execute` on a failed frame write ends with the bus error. -/
theorem execute_fail (he : lookup commandTable i.id = some e) (hf : encodeFrame e i.arg0 i.arg1 i.arg2 = encode i)
    (d : Diag) :
    execute defaultParams i.id i.arg0 i.arg1 i.arg2 (.fail d :: as) =
      some (refBusError d [.issued (.wr4 .main (encode i)), .answered (.fail d)] 0) := by
  simp only [execute, defaultParams_table, he, hf]

/-- The reference decode reads the registers of a state that holds the argument, the byte and the block. -/
theorem refDecode_eq {v : Verdict} (h1 : s.arg1 = .holds a1) (hn : s.rcnt = BitVec.ofNat 5 s.resp.length)
    (hv : decodePayload F e.fmt s = .ok v) :
    refDecode F e a1 s.rb s.resp bus w =
      some { status := v.status, result := resultOf v, diag := .unwritten, bus, waited := w + ticks e.d2 } := by
  have hregs : decodePayload F e.fmt (refRegisters a1 s.rb s.resp) = .ok v :=
    (decodePayload_congr (s := refRegisters a1 s.rb s.resp) (t := s) rfl rfl hn.symm h1.symm).trans hv
  rw [refDecode, hregs]
  cases v <;> rfl

/-- No format but the byte's reads RB (40_core.md R180). -/
theorem refDecode_rb (hx : e.fmt ≠ .byte) (bs : List Byte) :
    refDecode F e a1 rb bs bus w = refDecode F e a1 rb' bs bus w := by
  have hdecode : decodePayload F e.fmt (refRegisters a1 rb bs) = decodePayload F e.fmt (refRegisters a1 rb' bs) := by
    cases h : e.fmt with
    | byte => exact absurd h hx
    | _ => rfl
  rw [refDecode, refDecode, hdecode]

theorem refBlock_rb (hx : e.fmt ≠ .byte) : refBlock F e a1 rb as bus w = refBlock F e a1 rb' as bus w := by
  match as with
  | [] => rfl
  | .fail d :: _ => rfl
  | .ok bs :: _ => rw [refBlock, refBlock, refDecode_rb hx]

/-! ### The engine's state and what the reference semantics still has to do -/

/-- What `execute` still has to do for the command `i` with entry `e` in each phase of the engine, with the events `bus` at the
port so far but for an outstanding operation, and the answers `as` to come (40_core.md R160). -/
def remaining (i : Instr) (e : CtEntry) (bus : List BusEvent) (s : State) (as : List Answer) : Option Finished :=
  match s.phase with
  | .write => execute defaultParams i.id i.arg0 i.arg1 i.arg2 as
  | .wait1 => refReads Config.thermFn e i.arg1 as bus (settle e (encode i))
  | .rdByte => refByte Config.thermFn e i.arg1 as bus (settle e (encode i))
  | .rdBlk => refBlock Config.thermFn e i.arg1 s.rb as bus (settle e (encode i))
  | .wait2 | .decode => refDecode Config.thermFn e i.arg1 s.rb s.resp bus (settle e (encode i))
  | .idle | .done => none

/-- The ticks of the waits that a command has begun by a phase. -/
def begun (e : CtEntry) (f : Frame) (p : Phase) : Nat :=
  match p with
  | .idle | .write => 0
  | .wait1 | .rdByte | .rdBlk => settle e f
  | .wait2 | .decode | .done => settle e f + ticks e.d2

/-- The ticks that the wait in progress still has to count. -/
def left (s : State) : Nat := if s.phase.waiting then s.dly.toNat else 0

/-- The operation outstanding at the port, as the event of its presentation. -/
def presented (s : State) : List BusEvent := (s.tOp commandTable).toList.map .issued

/-- A command in progress: `pre` at the port before it, `bus` since then but for the outstanding operation, `w` ticks passed. -/
structure InProgress (i : Instr) (e : CtEntry) (pre bus : List BusEvent) (w : Nat) (s : State) : Prop where
  request : request s = (.holds i.id, .holds i.arg0, .holds i.arg1, .holds i.arg2, .holds (encode i))
  clear : s.outcomeClear
  rcnt : s.rcnt = BitVec.ofNat 5 s.resp.length
  resp : s.phase = .wait1 ∨ s.phase.onBus = true → s.resp = []
  trace : s.trace = pre ++ bus ++ presented s
  start : s.phase = .write → bus = []
  agrees : ∀ as, execute defaultParams i.id i.arg0 i.arg1 i.arg2 (answersOf bus ++ as) = remaining i e bus s as
  ticked : begun e (encode i) s.phase ≤ w + left s

/-- A finished command has the outcome of `execute` on the answers taken (40_core.md R160). -/
def Ended (i : Instr) (pre : List BusEvent) (w : Nat) (s : State) : Prop :=
  ∃ bus fin, execute defaultParams i.id i.arg0 i.arg1 i.arg2 (answersOf bus) = some fin ∧ fin.bus = bus ∧
    s.trace = pre ++ bus ∧ s.status = .holds fin.status ∧ s.result = fin.result ∧ s.diag = fin.diag ∧ fin.waited ≤ w

/-- What holds of every state of a run of the command `i`: reset, ended or in progress. -/
def Refines (i : Instr) (e : CtEntry) (pre : List BusEvent) (w : Nat) (s : State) : Prop :=
  s.phase = .idle ∨ (s.phase = .done ∧ Ended i pre w s) ∨ (s.ready = false ∧ ∃ bus, InProgress i e pre bus w s)

theorem presented_of_offBus (hp : s.phase.onBus = false) : presented s = [] := by
  rw [presented, tOp_eq_none hp]; rfl

theorem answersOf_append (a b : List BusEvent) : answersOf (a ++ b) = answersOf a ++ answersOf b :=
  List.filterMap_append

/-! ### The operation that each bus phase presents -/

theorem InProgress.request_eq (h : InProgress i e pre bus w s) :
    s.cmd = .holds i.id ∧ s.arg0 = .holds i.arg0 ∧ s.arg1 = .holds i.arg1 ∧ s.arg2 = .holds i.arg2 ∧
      s.frame = .holds (encode i) := by
  simpa only [Invariant.request, Prod.mk.injEq] using h.request

/-- The rules read the entry of the command in progress. -/
theorem InProgress.entry_eq {c : CmdId} {e' : CtEntry} (h : InProgress i e pre bus w s) (he : lookup commandTable i.id = some e)
    (hc : s.cmd = .holds c) (he' : lookup commandTable c = some e') : e' = e := by
  obtain ⟨hcmd, -⟩ := h.request_eq
  cases hcmd.symm.trans hc
  exact Option.some.inj (he'.symm.trans he)

theorem presented_write (h : InProgress i e pre bus w s) (hp : s.phase = .write) :
    presented s = [.issued (.wr4 .main (encode i))] := by
  obtain ⟨-, -, -, -, hframe⟩ := h.request_eq
  simp only [presented, State.tOp, hp, hframe, Option.toList_some, List.map_cons, List.map_nil]

theorem presented_rdByte (hp : s.phase = .rdByte) : presented s = [.issued (.rd1 .main)] := by
  simp only [presented, State.tOp, hp, Option.toList_some, List.map_cons, List.map_nil]

theorem presented_rdBlk {c : CmdId} (hp : s.phase = .rdBlk) (hc : s.cmd = .holds c) (he : lookup commandTable c = some e) :
    presented s = [.issued (.rdn e.raddr e.rlen)] := by
  simp only [presented, State.tOp, hp, hc, he, Option.map_some, Option.toList_some, List.map_cons, List.map_nil]

/-! ### Each rule keeps the agreement -/

/-- The answer to the outstanding operation is the next event at the port. -/
theorem InProgress.trace_answered (h : InProgress i e pre bus w s) (hop : presented s = [.issued op]) (a : Answer) :
    s.trace ++ [.answered a] = pre ++ (bus ++ [.issued op, .answered a]) := by
  rw [h.trace, hop]; simp

/-- An answer taken is the next answer of `execute`: it takes a command in progress to a state that holds the request and no outcome,
where what `execute` has to do agrees. -/
theorem InProgress.answered (h : InProgress i e pre bus w s) (a : Answer) (hop : presented s = [.issued op])
    (hreq : Invariant.request t = Invariant.request s) (hclear : t.outcomeClear) (hrcnt : t.rcnt = BitVec.ofNat 5 t.resp.length)
    (hresp : t.phase = .wait1 ∨ t.phase.onBus = true → t.resp = []) (htrace : t.trace = s.trace ++ [.answered a] ++ presented t)
    (hp : t.phase ≠ .write) (hticked : begun e (encode i) t.phase ≤ w + left t)
    (hstep : ∀ as, remaining i e bus s (a :: as) = remaining i e (bus ++ [.issued op, .answered a]) t as) :
    InProgress i e pre (bus ++ [.issued op, .answered a]) w t where
  request := hreq.trans h.request
  clear := hclear
  rcnt := hrcnt
  resp := hresp
  trace := by rw [htrace, h.trace_answered hop]
  start := fun hw => absurd hw hp
  agrees as := by
    have hans : answersOf (bus ++ [.issued op, .answered a]) ++ as = answersOf bus ++ a :: as := by
      rw [answersOf_append, List.append_assoc]; rfl
    rw [hans, h.agrees, hstep]
  ticked := hticked

/-- A failed operation ends the command as `execute` does (40_core.md R165, R172, R175). -/
theorem InProgress.failed (h : InProgress i e pre bus w s) (he : lookup commandTable i.id = some e)
    (hf : encodeFrame e i.arg0 i.arg1 i.arg2 = encode i) (hp : s.phase.onBus = true) (d : Diag) :
    Ended i pre w ((s.note (.answered (.fail d))).takeBusError d) := by
  obtain ⟨hc, -⟩ := h.request_eq
  have hfail : ∃ op, presented s = [.issued op] ∧ remaining i e bus s [.fail d] =
      some (refBusError d (bus ++ [.issued op, .answered (.fail d)]) (begun e (encode i) s.phase)) := by
    rcases onBus_iff.mp hp with hp | hp | hp
    · refine ⟨_, presented_write h hp, ?_⟩
      simp only [remaining, hp, h.start hp]
      exact execute_fail he hf d
    · exact ⟨_, presented_rdByte hp, by simp only [remaining, hp]; rfl⟩
    · exact ⟨_, presented_rdBlk hp hc he, by simp only [remaining, hp]; rfl⟩
  obtain ⟨op, hop, hrem⟩ := hfail
  obtain ⟨-, hresult, -⟩ := h.clear
  have hticks : begun e (encode i) s.phase ≤ w := by
    simpa [left, waiting_eq_false_of_onBus hp] using h.ticked
  have hans : answersOf (bus ++ [.issued op, .answered (.fail d)]) = answersOf bus ++ [.fail d] := by
    rw [answersOf_append]; rfl
  have hexec := (h.agrees _).trans hrem
  rw [← hans] at hexec
  exact ⟨_, _, hexec, rfl, h.trace_answered hop (.fail d), rfl, hresult, rfl, hticks⟩

/-- A tick counts towards the wait in progress, or towards none (40_core.md R168). -/
theorem InProgress.ticked_countTick (h : InProgress i e pre bus w s) : InProgress i e pre bus (w + 1) s.countTick where
  request := by simpa [Invariant.request] using h.request
  clear := by simpa [State.outcomeClear] using h.clear
  rcnt := by simpa using h.rcnt
  resp := by simpa using h.resp
  trace := by simpa [presented, State.tOp] using h.trace
  start := by simpa using h.start
  agrees := by simpa [remaining] using h.agrees
  ticked := by
    have hleft : left s ≤ left s.countTick + 1 := by
      simp only [left, State.countTick_phase, State.countTick_dly]
      cases hw : s.phase.waiting with
      | false => simp
      | true =>
        simp only [if_true, Bool.true_and, bne_iff_ne]
        split <;> bv_omega
    have := h.ticked
    rw [State.countTick_phase]; omega

/-- An acknowledged frame write starts the settle wait (40_core.md R164). -/
theorem InProgress.wrote (h : InProgress i e pre bus w s) (he : lookup commandTable i.id = some e)
    (hf : encodeFrame e i.arg0 i.arg1 i.arg2 = encode i) (hp : s.phase = .write) (x : List Byte) :
    ∃ bus', InProgress i e pre bus' w ((s.note (.answered (.ok x))).loadDelay .wait1 (settle e (encode i))) := by
  have hb : settle e (encode i) < 2 ^ 32 := (settle_le he _).trans_lt (by norm_num)
  have hticked : settle e (encode i) ≤ w + (BitVec.ofNat 32 (settle e (encode i))).toNat := by
    rw [BitVec.toNat_ofNat, Nat.mod_eq_of_lt hb]; exact Nat.le_add_left _ w
  refine ⟨_, h.answered (.ok x) (presented_write h hp) rfl h.clear h.rcnt (fun _ => h.resp (.inr (by rw [hp]; rfl)))
    (List.append_nil _).symm nofun hticked fun as => ?_⟩
  simp only [remaining, hp, h.start hp]
  exact execute_ok he hf x

/-- Where a read is outstanding the settle wait has passed. -/
theorem InProgress.settled_of_read (h : InProgress i e pre bus w s) (hp : s.phase = .rdByte ∨ s.phase = .rdBlk) :
    settle e (encode i) ≤ w := by
  rcases hp with hp | hp <;> simpa [hp, begun, left, Phase.waiting] using h.ticked

/-- The hold's ticks are those still to count after the settle wait's. -/
theorem InProgress.ticked_hold (h : InProgress i e pre bus w s) (hb : ticks e.d2 < 2 ^ 32)
    (hp : s.phase = .rdByte ∨ s.phase = .rdBlk) :
    settle e (encode i) + ticks e.d2 ≤ w + (BitVec.ofNat 32 (ticks e.d2)).toNat := by
  rw [BitVec.toNat_ofNat, Nat.mod_eq_of_lt hb]
  exact Nat.add_le_add_right (h.settled_of_read hp) _

/-- The command's own byte starts the hold (40_core.md R171). -/
theorem InProgress.readByte (h : InProgress i e pre bus w s) (he : lookup commandTable i.id = some e)
    (hp : s.phase = .rdByte) (hk : e.rk = .byte) (b : Byte) (x : List Byte) :
    ∃ bus', InProgress i e pre bus' w (((s.note (.answered (.ok (b :: x)))).setRb b).beginHold e) := by
  have hb : ticks e.d2 < 2 ^ 32 := (hold_le he).trans_lt (by norm_num)
  have hresp : s.resp = [] := h.resp (.inr (by rw [hp]; rfl))
  refine ⟨_, h.answered (.ok (b :: x)) (presented_rdByte hp) rfl h.clear h.rcnt nofun (List.append_nil _).symm nofun
    (h.ticked_hold hb (.inl hp)) fun as => ?_⟩
  simp only [remaining, hp, refByte, hk, State.beginHold_phase, State.beginHold_rb, State.setRb_rb, State.beginHold_resp,
    State.setRb_resp, State.note_resp, hresp]

/-- The discarded byte starts the block read (40_core.md R171). -/
theorem InProgress.discarded (h : InProgress i e pre bus w s) (he : lookup commandTable i.id = some e)
    (hp : s.phase = .rdByte) (hk : e.rk ≠ .byte) (b : Byte) (x : List Byte) :
    ∃ bus', InProgress i e pre bus' w (((s.note (.answered (.ok (b :: x)))).setRb b).issueBlock e) := by
  obtain ⟨hc, -⟩ := h.request_eq
  have hticked : settle e (encode i) ≤ w := h.settled_of_read (.inl hp)
  refine ⟨_, h.answered (.ok (b :: x)) (presented_rdByte hp) rfl h.clear h.rcnt (fun _ => h.resp (.inr (by rw [hp]; rfl))) ?_ nofun
    hticked fun as => ?_⟩
  · rw [presented_rdBlk (s := ((s.note (.answered (.ok (b :: x)))).setRb b).issueBlock e) rfl hc he]
    rfl
  · simp only [remaining, hp, refByte]
    cases hrk : e.rk with
    | byte => exact absurd hrk hk
    | none => rfl
    | block => rfl

/-- The delivered block starts the hold (40_core.md R174). -/
theorem InProgress.readBlock (h : InProgress i e pre bus w s) (he : lookup commandTable i.id = some e)
    (hp : s.phase = .rdBlk) {x : List Byte} (hl : x.length ≤ e.rlen.toNat) :
    ∃ bus', InProgress i e pre bus' w (((s.note (.answered (.ok x))).setResp x).beginHold e) := by
  have hb : ticks e.d2 < 2 ^ 32 := (hold_le he).trans_lt (by norm_num)
  obtain ⟨hc, -⟩ := h.request_eq
  refine ⟨_, h.answered (.ok x) (presented_rdBlk hp hc he) rfl h.clear rfl nofun (List.append_nil _).symm nofun
    (h.ticked_hold hb (.inr hp)) fun as => ?_⟩
  simp only [remaining, hp, refBlock, if_neg (not_lt.mpr hl)]
  rfl

/-- The exit of the settle wait is taken after the settle ticks (40_core.md R168). -/
theorem InProgress.settled_of_wait1 (h : InProgress i e pre bus w s) (hp : s.phase = .wait1) (hd : s.dly = 0) :
    settle e (encode i) ≤ w := by
  simpa [hp, begun, left, hd] using h.ticked

/-- After the settle wait a write-only command ends with `OK` and `none` (40_core.md R169). -/
theorem InProgress.endedWrite (h : InProgress i e pre bus w s) (hp : s.phase = .wait1) (hd : s.dly = 0)
    (hk : e.rk = .none) : Ended i pre w (s.finish (.ok .none)) := by
  obtain ⟨-, -, hdiag⟩ := h.clear
  have hans := h.agrees []
  have htrace := h.trace
  simp only [remaining, hp, refReads, hk, List.append_nil] at hans
  rw [presented_of_offBus (by rw [hp]; rfl), List.append_nil] at htrace
  exact ⟨bus, _, hans, rfl, htrace, rfl, rfl, hdiag, h.settled_of_wait1 hp hd⟩

/-- After the settle wait the one-byte read is presented (40_core.md R169). -/
theorem InProgress.toByte (h : InProgress i e pre bus w s) (hp : s.phase = .wait1) (hd : s.dly = 0)
    (hk : e.rk = .byte ∨ (e.rk = .block ∧ e.disc = true)) : InProgress i e pre bus w s.issueByte where
  request := h.request
  clear := h.clear
  rcnt := h.rcnt
  resp _ := h.resp (.inl hp)
  trace := by
    have htrace := h.trace
    rw [presented_of_offBus (by rw [hp]; rfl), List.append_nil] at htrace
    rw [presented_rdByte rfl, ← htrace]
    rfl
  start := nofun
  agrees as := by
    rw [h.agrees]
    simp only [remaining, hp, refReads, State.issueByte_phase]
    rcases hk with hk | ⟨hk, hdisc⟩
    · simp only [hk]
    · simp only [hk, hdisc, if_true]
  ticked := h.settled_of_wait1 hp hd

/-- After the settle wait the block read is presented; its format does not read RB, which no step of the command has written
(40_core.md R169; log 30). -/
theorem InProgress.toBlock (h : InProgress i e pre bus w s) (he : lookup commandTable i.id = some e) (hp : s.phase = .wait1)
    (hd : s.dly = 0) (hk : e.rk = .block) (hdisc : e.disc = false) : InProgress i e pre bus w (s.issueBlock e) where
  request := h.request
  clear := h.clear
  rcnt := h.rcnt
  resp _ := h.resp (.inl hp)
  trace := by
    obtain ⟨hc, -⟩ := h.request_eq
    have htrace := h.trace
    rw [presented_of_offBus (by rw [hp]; rfl), List.append_nil] at htrace
    rw [presented_rdBlk (s := s.issueBlock e) rfl hc he, ← htrace]
    rfl
  start := nofun
  agrees as := by
    rw [h.agrees]
    simp only [remaining, hp, refReads, hk, hdisc, State.issueBlock_phase, State.issueBlock_rb]
    exact refBlock_rb (fmt_ne_byte_of_block he hk)
  ticked := h.settled_of_wait1 hp hd

/-- The hold ends with its last tick (40_core.md R170). -/
theorem InProgress.toDecode (h : InProgress i e pre bus w s) (hp : s.phase = .wait2) (hd : s.dly = 0) :
    InProgress i e pre bus w s.toDecode where
  request := h.request
  clear := h.clear
  rcnt := h.rcnt
  resp := nofun
  trace := by
    have htrace := h.trace
    rwa [presented_of_offBus (by rw [hp]; rfl)] at htrace
  start := nofun
  agrees as := by
    rw [h.agrees]
    simp only [remaining, hp, State.toDecode_phase, State.toDecode_rb, State.toDecode_resp]
  ticked := by simpa [hp, begun, left, hd, Phase.waiting] using h.ticked

/-- The decode step ends the command with the reference's verdict (40_core.md R176). -/
theorem InProgress.decoded (h : InProgress i e pre bus w s) (hp : s.phase = .decode) {v : Verdict}
    (hv : decodePayload Config.thermFn e.fmt s = .ok v) : Ended i pre w (s.finish v) := by
  obtain ⟨-, hresult, hdiag⟩ := h.clear
  obtain ⟨-, -, harg1, -, -⟩ := h.request_eq
  have hans := h.agrees []
  have htrace := h.trace
  simp only [remaining, hp, List.append_nil] at hans
  rw [refDecode_eq harg1 h.rcnt hv] at hans
  rw [presented_of_offBus (by rw [hp]; rfl), List.append_nil] at htrace
  have hticked : settle e (encode i) + ticks e.d2 ≤ w := by
    simpa [hp, begun, left, Phase.waiting] using h.ticked
  rw [finish_of_unwritten hresult]
  exact ⟨bus, _, hans, rfl, htrace, rfl, rfl, hdiag, hticked⟩

/-! ### The run of a command -/

theorem refines_of_inProgress (hb : t.ready = false) (h : ∃ bus, InProgress i e pre bus w t) : Refines i e pre w t :=
  .inr (.inr ⟨hb, h⟩)

theorem refines_of_ended (hp : t.phase = .done) (h : Ended i pre w t) : Refines i e pre w t := .inr (.inl ⟨hp, h⟩)

/-- Every rule of the engine keeps the agreement of a command in progress with `execute`. -/
theorem took_refines (he : lookup commandTable i.id = some e) (hf : encodeFrame e i.arg0 i.arg1 i.arg2 = encode i)
    (hb : s.ready = false) (h : InProgress i e pre bus w s) (htook : Took defaultParams ev s t) :
    Refines i e pre (w + [ev].count .tick) t := by
  have hbusy {r : Bool} (hr : s.ready = r) : r = false := hr.symm.trans hb
  have entry {c : CmdId} {e' : CtEntry} (hc : s.cmd = .holds c) (he' : lookup commandTable c = some e') : e' = e :=
    h.entry_eq he hc he'
  cases htook with
  | reset => exact .inl rfl
  | accepted _ _ _ _ _ _ hr => cases hbusy hr
  | refused _ _ _ _ _ hr => cases hbusy hr
  | notSampled => exact refines_of_inProgress hb ⟨bus, h⟩
  | ticked => exact refines_of_inProgress (by rw [State.ready, State.countTick_phase]; exact hb) ⟨bus, h.ticked_countTick⟩
  | failed _ d hp => exact refines_of_ended rfl (h.failed he hf hp d)
  | wrote _ x c e' f hp hc he' hframe =>
    obtain rfl := entry hc he'
    obtain ⟨-, -, -, -, hframe'⟩ := h.request_eq
    cases hframe.symm.trans hframe'
    exact refines_of_inProgress rfl (h.wrote he hf hp x)
  | readByte _ b x c e' hp hc he' hk =>
    obtain rfl := entry hc he'
    exact refines_of_inProgress rfl (h.readByte he hp hk b x)
  | discarded _ b x c e' hp hc he' hk =>
    obtain rfl := entry hc he'
    exact refines_of_inProgress rfl (h.discarded he hp hk b x)
  | readBlock _ x c e' hp hc he' hl =>
    obtain rfl := entry hc he'
    exact refines_of_inProgress rfl (h.readBlock he hp hl)
  | unsolicited => exact refines_of_inProgress hb ⟨bus, h⟩
  | endedWrite _ c e' hp hd hc he' hk =>
    obtain rfl := entry hc he'
    exact refines_of_ended rfl (h.endedWrite hp hd hk)
  | toByte _ c e' hp hd hc he' hk =>
    obtain rfl := entry hc he'
    exact refines_of_inProgress rfl ⟨bus, h.toByte hp hd hk⟩
  | toBlock _ c e' hp hd hc he' hk hdisc =>
    obtain rfl := entry hc he'
    exact refines_of_inProgress rfl ⟨bus, h.toBlock he hp hd hk hdisc⟩
  | heldOut _ hp hd => exact refines_of_inProgress rfl ⟨bus, h.toDecode hp hd⟩
  | decoded _ c e' v hp hc he' hv =>
    obtain rfl := entry hc he'
    exact refines_of_ended rfl (h.decoded hp hv)
  | notEnabled => exact refines_of_inProgress hb ⟨bus, h⟩

theorem InProgress.setInputs (h : InProgress i e pre bus w s) (es : List Input) : InProgress i e pre bus w (s.setInputs es) :=
  ⟨h.request, h.clear, h.rcnt, h.resp, h.trace, h.start, h.agrees, h.ticked⟩

/-- A run that begins in agreement with `execute` ends in agreement, after the events it used and their ticks. -/
theorem drive_refines (he : lookup commandTable i.id = some e) (hf : encodeFrame e i.arg0 i.arg1 i.arg2 = encode i)
    {es : List Input} (hi : s.inputs = es) (h : Refines i e pre w s) (hrun : drive defaultParams es s = .next t) :
    ∃ used, es = used ++ t.inputs ∧ Refines i e pre (w + used.count .tick) t := by
  induction es generalizing s w with
  | nil => cases hrun; exact ⟨[], by rw [hi, List.append_nil], h⟩
  | cons ev rest ih =>
    rcases drive_cons_next hrun with ⟨-, rfl⟩ | ⟨s', hb, htook, hrun⟩
    · exact ⟨[], hi.symm, h⟩
    · have hstep : Refines i e pre (w + [ev].count .tick) s' := by
        rcases h with hp | ⟨hp, -⟩ | ⟨-, bus, h⟩
        · rw [State.ready, hp] at hb; cases hb
        · rw [State.ready, hp] at hb; cases hb
        · exact took_refines (s := s.setInputs rest) he hf hb (h.setInputs rest) htook
      obtain ⟨used, hused, h'⟩ := ih htook.inputs hstep hrun
      refine ⟨ev :: used, by rw [hused, List.cons_append], ?_⟩
      rwa [← List.singleton_append, List.count_append, ← Nat.add_assoc]

/-- The accept begins the command in agreement with `execute`: no answer is taken, and the frame write is presented. -/
theorem inProgress_latch (i : Instr) (e : CtEntry) (s : State) :
    InProgress i e s.trace [] 0 (s.latch i.id i.arg0 i.arg1 i.arg2 (encode i)) where
  request := rfl
  clear := ⟨rfl, rfl, rfl⟩
  rcnt := rfl
  resp _ := rfl
  trace := by rw [List.append_nil]; rfl
  start _ := rfl
  agrees _ := rfl
  ticked := Nat.zero_le _

/-- A command that comes to DONE has the outcome of `execute`. -/
theorem exec_refines (hr : s.ready = true) (hrun : exec i s = .next t) (hp : t.phase = .done) :
    ∃ used, s.inputs = used ++ t.inputs ∧ Ended i s.trace (used.count .tick) t := by
  obtain ⟨e, he, hf⟩ := lookup_id i
  rw [exec_ready hr] at hrun
  have hstart := refines_of_inProgress (t := s.latch i.id i.arg0 i.arg1 i.arg2 (encode i)) rfl ⟨[], inProgress_latch i e s⟩
  obtain ⟨used, hused, hend⟩ := drive_refines he hf rfl hstart hrun
  rw [Nat.zero_add] at hend
  refine ⟨used, hused, ?_⟩
  rcases hend with hidle | ⟨-, hend⟩ | ⟨hb, -⟩
  · cases hp.symm.trans hidle
  · exact hend
  · rw [State.ready, hp] at hb; cases hb

/-- Settles O44: by the agreement of the engine's state with what `execute` still has to do, which every rule keeps. -/
theorem commandsRefineTheReference : Obligations.CommandsRefineTheReference := by
  intro i s t hrun hr hp
  obtain ⟨used, hused, bus, fin, hexec, hbus, htrace, hstatus, hresult, hdiag, hticks⟩ := exec_refines hr hrun hp
  exact ⟨bus, fin, used, htrace, hexec, hstatus, hresult, hdiag, hbus.symm, hused, hticks⟩

/-! ### The minimum ticks -/

theorem refDecode_waited {bs : List Byte} (h : refDecode F e a1 rb bs bus w = some fin) : fin.waited = w + ticks e.d2 := by
  unfold refDecode at h
  split at h
  · cases h
  · cases h; rfl

/-- A block read that does not end with a bus error runs the hold. -/
theorem refBlock_waited (h : refBlock F e a1 rb as bus w = some fin) :
    fin.status = .busError ∨ fin.waited = w + ticks e.d2 := by
  unfold refBlock at h
  split at h
  · cases h
  · cases h; exact .inl rfl
  · split at h
    · cases h
    · exact .inr (refDecode_waited h)

theorem refByte_waited (h : refByte F e a1 as bus w = some fin) :
    fin.status = .busError ∨ fin.waited = w + ticks e.d2 := by
  unfold refByte at h
  split at h
  · cases h
  · cases h; exact .inl rfl
  · cases h
  · split at h
    · exact .inr (refDecode_waited h)
    · exact refBlock_waited h
    · exact refBlock_waited h

theorem refReads_waited (hd : e.rk = .none → e.d2 = 0) (h : refReads F e a1 as bus w = some fin) :
    fin.status = .busError ∨ fin.waited = w + ticks e.d2 := by
  unfold refReads at h
  split at h
  · rename_i hk
    cases h
    rw [hd hk]
    exact .inr rfl
  · exact refByte_waited h
  · split at h
    · exact refByte_waited h
    · exact refBlock_waited h

/-- `execute` runs both waits of a command that does not end with a bus error. -/
theorem execute_waited (he : lookup commandTable i.id = some e) (hf : encodeFrame e i.arg0 i.arg1 i.arg2 = encode i)
    (h : execute defaultParams i.id i.arg0 i.arg1 i.arg2 as = some fin) :
    fin.status = .busError ∨ fin.waited = settle e (encode i) + ticks e.d2 := by
  obtain ⟨-, hrows, -⟩ := Builds.tableOk_iff.mp Builds.tableOk_commandTable
  obtain ⟨-, hnone, -⟩ := hrows e (List.mem_of_getElem? he)
  match as with
  | [] => simp only [execute, defaultParams_table, he, reduceCtorEq] at h
  | .fail d :: _ =>
    rw [execute_fail he hf] at h
    cases h
    exact .inl rfl
  | .ok x :: _ =>
    rw [execute_ok he hf] at h
    exact refReads_waited (fun hk => (hnone hk).2) h

/-- The table of minimum ticks is the sum of each entry's two waits (70_reset_and_hazards.md R404). -/
theorem minimumTicks_eq (he : lookup commandTable i.id = some e) : minimumTicks i = settle e (encode i) + ticks e.d2 := by
  cases i <;> cases he <;> rfl

/-- Settles O45: `execute` runs both waits, and the engine takes at least the ticks that `execute` runs. -/
theorem commandsTakeTheirMinimumTicks : Obligations.CommandsTakeTheirMinimumTicks := by
  intro i s t hrun hr hp hstatus
  obtain ⟨e, he, hf⟩ := lookup_id i
  obtain ⟨used, hused, bus, fin, hexec, -, -, hfin, -, -, hticks⟩ := exec_refines hr hrun hp
  rcases execute_waited he hf hexec with hbus | hwaited
  · exact absurd (hfin.trans (congrArg _ hbus)) hstatus
  · refine ⟨used, hused, ?_⟩
    rw [minimumTicks_eq he, ← hwaited]
    exact hticks

end Sys2Proof.Proofs.Refinement

/-! PROOFS. The statements about single steps: the step of the machine at a request, and the engine's rules phase by phase
(40_core.md R161 to R176). -/

namespace Sys2Proof.Proofs.EngineRules

open Sys2Proof.Machine

variable {G : Params} {s : State} {ev : Input} {rest : List Input} {c : CmdId} {e : CtEntry} {f : Frame}

/-! ### The step at a request -/

/-- A busy machine goes on with the command in progress. -/
theorem step_busy (hb : s.ready = false) : step s = drive defaultParams s.inputs s := by
  simp only [step, stepWith, hb, resume, Bool.false_eq_true, if_false]

/-- With no event to come nothing happens. -/
theorem step_nil (hi : s.inputs = []) : step s = .next s := by
  cases hr : s.ready with
  | true => simp only [step, stepWith, hr, hi, if_true]
  | false => rw [step_busy hr, hi, drive_nil]

/-- Settles O8: the dispatch of the step, at a ready engine, at a busy one and without events. -/
theorem stepRunsTheRequestedCommand : Obligations.StepRunsTheRequestedCommand :=
  ⟨fun _ _ _ hr hi => Builds.stepWith_request hr hi, fun _ => step_busy, fun _ => step_nil⟩

/-- A ready engine accepts the request of an id that has an entry (40_core.md R162). -/
theorem engineStep_accept (hr : s.ready = true) (he : lookup G.table c = some e) (a0 a1 a2 : Word) :
    engineStep G (.req c a0 a1 a2) s = .next (s.latch c a0 a1 a2 (encodeFrame e a0 a1 a2)) := by
  simp only [engineStep, takeRequest, hr, he, if_true]

/-- A busy engine does not sample a request (40_core.md R162). -/
theorem engineStep_notSampled (hb : s.ready = false) (a0 a1 a2 : Word) :
    engineStep G (.req c a0 a1 a2) s = .next s := by
  simp only [engineStep, takeRequest, hb, Bool.false_eq_true, if_false]

/-- Settles O10: an id up to 44 has an entry, whose accept is `latch` written out register by register. -/
theorem acceptLatchesTheRequest : Obligations.AcceptLatchesTheRequest := by
  intro s c a0 a1 a2
  refine ⟨fun hr hc => ?_, fun hb => engineStep_notSampled hb a0 a1 a2⟩
  have hsome : (lookup commandTable c).isSome = true := (lookup_isSome Builds.tableOk_commandTable).mpr (Nat.lt_succ_of_le hc)
  obtain ⟨e, he⟩ := Option.isSome_iff_exists.mp hsome
  exact ⟨e, he, engineStep_accept hr he a0 a1 a2⟩

/-- Settles O12: no command and no entry has an id from 45 on, and a refusal is `refuse` written out. -/
theorem refusalOnlyMarksAndGoesIdle : Obligations.RefusalOnlyMarksAndGoesIdle := by
  intro s c a0 a1 a2 rest hr hc hi
  exact ⟨Builds.stepWith_refused hr (commandOf_none a0 a1 a2 hc) (lookup_none hc) hi, rfl, rfl⟩

/-! ### The transport's answers -/

/-- A failed operation ends the command with the diagnostic (40_core.md R165, R172, R175). -/
theorem engineStep_fail (hp : s.phase = .write ∨ s.phase = .rdByte ∨ s.phase = .rdBlk) (d : Diag) :
    engineStep G (.answer (.fail d)) s = .next ((s.note (.answered (.fail d))).takeBusError d) := by
  rcases hp with hp | hp | hp
  · simp only [engineStep, takeAnswer, hp, answerWrite]
  · simp only [engineStep, takeAnswer, hp, answerByte]
  · simp only [engineStep, takeAnswer, hp, answerBlock]

/-- Settles O16: `takeBusError` after the answer, in each bus phase. -/
theorem failedOperationEndsTheCommand : Obligations.FailedOperationEndsTheCommand :=
  fun _ d hp => engineStep_fail hp d

/-- An acknowledged frame write loads the settle count (40_core.md R164). -/
theorem engineStep_wrote (hp : s.phase = .write) (hc : s.cmd = .holds c) (he : lookup G.table c = some e)
    (hf : s.frame = .holds f) (x : List Byte) :
    engineStep G (.answer (.ok x)) s = .next ((s.note (.answered (.ok x))).loadDelay .wait1 (settle e f)) := by
  simp only [engineStep, takeAnswer, hp, answerWrite, withEntry_eq _ hc he, withFrame_eq _ hf]

/-- Settles O17: the settle count by the entry's delay, a constant of 0, a longer one or the monitor mode's. -/
theorem writeSuccessLoadsTheSettleCount : Obligations.WriteSuccessLoadsTheSettleCount := by
  intro s x c e f hp hc he hf
  rw [engineStep_wrote hp hc he hf, State.loadDelay, settle]
  cases e.d1 with
  | mon => rfl
  | ms d =>
    cases d with
    | zero => rfl
    | succ d => rfl

/-- The command's own byte starts the hold (40_core.md R170, R171). -/
theorem engineStep_readByte (hp : s.phase = .rdByte) (hc : s.cmd = .holds c) (he : lookup G.table c = some e)
    (hk : e.rk = .byte) (b : Byte) (x : List Byte) :
    engineStep G (.answer (.ok (b :: x))) s = .next (((s.note (.answered (.ok (b :: x)))).setRb b).beginHold e) := by
  simp only [engineStep, takeAnswer, hp, answerByte, withEntry_eq _ hc he, hk]

/-- A discarded byte starts the block read (40_core.md R171). -/
theorem engineStep_discarded (hp : s.phase = .rdByte) (hc : s.cmd = .holds c) (he : lookup G.table c = some e)
    (hk : e.rk ≠ .byte) (b : Byte) (x : List Byte) :
    engineStep G (.answer (.ok (b :: x))) s = .next (((s.note (.answered (.ok (b :: x)))).setRb b).issueBlock e) := by
  simp only [engineStep, takeAnswer, hp, answerByte, withEntry_eq _ hc he]
  cases hrk : e.rk with
  | byte => exact absurd hrk hk
  | none => rfl
  | block => rfl

/-- Settles O20: by the read kind of the entry. -/
theorem byteReadFillsRb : Obligations.ByteReadFillsRb := by
  intro s b x c e hp hc he
  split
  case isTrue hk => exact engineStep_readByte hp hc he hk b x
  case isFalse hk =>
    rw [engineStep_discarded hp hc he hk]
    simp [State.issueBlock, State.setRb, State.note]

/-- A delivered block starts the hold (40_core.md R170, R174). -/
theorem engineStep_readBlock (hp : s.phase = .rdBlk) (hc : s.cmd = .holds c) (he : lookup G.table c = some e)
    {x : List Byte} (hl : x.length ≤ e.rlen.toNat) :
    engineStep G (.answer (.ok x)) s = .next (((s.note (.answered (.ok x))).setResp x).beginHold e) := by
  simp only [engineStep, takeAnswer, hp, answerBlock, withEntry_eq _ hc he, if_neg (not_lt.mpr hl)]

/-- A block longer than asked for is a fault of the environment (10_state.md R47). -/
theorem engineStep_overlong (hp : s.phase = .rdBlk) (hc : s.cmd = .holds c) (he : lookup G.table c = some e)
    {x : List Byte} (hl : e.rlen.toNat < x.length) : engineStep G (.answer (.ok x)) s = .fault .overlongDelivery := by
  simp only [engineStep, takeAnswer, hp, answerBlock, withEntry_eq _ hc he, if_pos hl]

/-- Settles O21: `RESP` holds the delivered bytes, and `respAt` reads them. -/
theorem blockReadFillsResp : Obligations.BlockReadFillsResp := by
  intro s x c e hp hc he
  exact ⟨fun hl => ⟨_, engineStep_readBlock hp hc he hl, rfl, fun _ => rfl⟩, engineStep_overlong hp hc he⟩

/-! ### The waits and the decode -/

/-- A wait does not exit while ticks are left (70_reset_and_hazards.md R395). -/
theorem engineStep_go_waiting (hp : s.phase = .wait1 ∨ s.phase = .wait2) (hd : s.dly ≠ 0) :
    engineStep G .go s = .next s := by
  rcases hp with hp | hp <;> simp only [engineStep, takeGo, hp, if_neg hd]

/-- A tick counts in a wait with ticks left (40_core.md R168). -/
theorem countTick_counts (hp : s.phase = .wait1 ∨ s.phase = .wait2) (hd : s.dly ≠ 0) :
    s.countTick = { s with dly := s.dly - 1 } := by
  have hcounts : (s.phase.waiting && s.dly != 0) = true := by
    rcases hp with hp | hp <;> simpa [hp, Phase.waiting] using hd
  rw [State.countTick, if_pos hcounts]

/-- A tick counts nowhere else (40_core.md R168). -/
theorem countTick_ignored (h : s.dly = 0 ∨ (s.phase ≠ .wait1 ∧ s.phase ≠ .wait2)) : s.countTick = s := by
  rcases h with hd | ⟨h1, h2⟩
  · simp [State.countTick, hd]
  · refine Registers.countTick_of_not_waiting ?_
    cases hp : s.phase with
    | wait1 => exact absurd hp h1
    | wait2 => exact absurd hp h2
    | _ => rfl

/-- The hold exits without a tick at `DLY = 0` (40_core.md R170). -/
theorem engineStep_go_held (hp : s.phase = .wait2) (hd : s.dly = 0) : engineStep G .go s = .next s.toDecode := by
  simp only [engineStep, takeGo, hp, if_pos hd]

/-- Settles O18: the ticks that count, those that do not, and the exit of the hold. -/
theorem ticksCountOnlyInWaits : Obligations.TicksCountOnlyInWaits := by
  refine ⟨fun s hp hd => ⟨?_, engineStep_go_waiting hp hd⟩, fun s h => ?_, fun s hp hd => engineStep_go_held hp hd⟩
  · rw [engineStep, countTick_counts hp hd]
  · rw [engineStep, countTick_ignored h]

/-- The exit from the settle wait by the entry's read kind (40_core.md R169). -/
theorem engineStep_go_settled (hp : s.phase = .wait1) (hd : s.dly = 0) (hc : s.cmd = .holds c)
    (he : lookup G.table c = some e) :
    engineStep G .go s =
      .next (if e.rk = .none then s.finish (.ok .none)
        else if e.rk = .byte ∨ e.disc = true then s.issueByte
        else s.issueBlock e) := by
  simp only [engineStep, takeGo, hp, if_pos hd, exitWait1, withEntry_eq _ hc he]
  cases e.rk with
  | none => rfl
  | byte => rfl
  | block => cases e.disc <;> rfl

/-- Settles O19: the exit of WAIT1, with `finish`, `issueByte` and `issueBlock` written out. -/
theorem exitFromTheSettleWait : Obligations.ExitFromTheSettleWait :=
  fun _ _ _ hp hd hc he => engineStep_go_settled hp hd hc he

/-- Settles O22: the decode step ends the command with the verdict, which keeps RESULT where it has no value. -/
theorem decodeStepWritesTheOutcome : Obligations.DecodeStepWritesTheOutcome := by
  intro s c e v hp hc he hv
  rw [Builds.engineStep_decode (G := defaultParams) hp hc he hv]
  cases v with
  | ok r => rfl
  | noData => rfl
  | invalidReading => rfl

end Sys2Proof.Proofs.EngineRules

/-! PROOFS. The statements about whole commands: the reads with the verdict of each format, the monitor mode's wait, the three kinds of
bus error, and the write that is never answered. -/

namespace Sys2Proof.Proofs.Commands

open Sys2Proof.Machine Sys2Proof.Claims Sys2Proof.Proofs.Memory

variable {G : Params} {s : State} {i : Instr} {c : CmdId} {e : CtEntry} {v : Verdict} {es more rest : List Input} {a1 : Word}
  {x y bs tail : List Byte} {b b0 b1 b2 b3 : Byte} {m n : Nat} {fmt : Format} {d : Diag}

/-! ### From the accept to the end of the reads -/

/-- The state in which the accepted command `i` leaves its settle wait, with the events `es` to come. -/
def afterSettle (s : State) (i : Instr) (x : List Byte) (es : List Input) : State :=
  (((s.latch i.id i.arg0 i.arg1 i.arg2 (encode i)).note (.answered (.ok x))).loadDelay .wait1 0).setInputs es

/-- An accepted command whose write is acknowledged comes to the end of its settle wait (40_core.md R162, R164, R168). -/
theorem exec_settled (hr : s.ready = true) (he : lookup commandTable i.id = some e) (hm : settle e (encode i) ≤ m)
    (hi : s.inputs = settled x m more) :
    exec i s = drive defaultParams (.go :: more) (afterSettle s i x (.go :: more)) := by
  have hsettle : settle e (encode i) < 2 ^ 32 := (settle_le he _).trans_lt (by norm_num)
  rw [exec_ready hr, hi, settled, drive_settled rfl rfl he rfl hm hsettle, afterSettle]

/-- The command's own byte, at least the hold ticks and the decode end a command of the byte format (40_core.md R170, R171, R180). -/
theorem drive_lastByte (hp : s.phase = .rdByte) (hc : s.cmd = .holds c) (he : lookup G.table c = some e) (hk : e.rk = .byte)
    (hfmt : e.fmt = .byte) (hn : ticks e.d2 ≤ n) :
    drive G (lastRead (b :: y) n rest) s =
      .next (((((s.note (.answered (.ok (b :: y)))).setRb b).loadDelay .decode 0).setInputs rest).finish (.ok (.byte b))) := by
  rw [lastRead, drive_readByte hp hc he hk]
  refine drive_held rfl hc he (Invariant.ofNat_le hn) rfl ?_
  rw [hfmt]
  rfl

/-- A command that reads one byte ends with that byte (40_core.md R164, R169, R171, R176). -/
theorem exec_readByte (hr : s.ready = true) (he : lookup commandTable i.id = some e) (hk : e.rk = .byte) (hfmt : e.fmt = .byte)
    (hm : settle e (encode i) ≤ m) (hn : ticks e.d2 ≤ n) (hi : s.inputs = settled x m (lastRead (b :: y) n rest)) :
    exec i s = .next (readBlock s i.id i.arg0 i.arg1 i.arg2 (encode i) (.holds b) [] .ok (.holds (.byte b))
      (busWrite (encode i) x ++ busByte (b :: y)) rest) := by
  rw [exec_settled hr he hm hi, drive_toByte rfl rfl rfl he (.inl hk), drive_lastByte rfl rfl he hk hfmt hn,
    finish_of_unwritten rfl]
  simp [afterSettle, readBlock, busWrite, busByte, Verdict.status, resultOf]

/-- What the format answers of the block `bs` with the argument `a1`. -/
def Decodes (fmt : Format) (a1 : Word) (bs : List Byte) (v : Verdict) : Prop :=
  ∀ t : State, t.arg1 = .holds a1 → t.resp = bs → t.rcnt.toNat = t.resp.length → decodePayload Config.thermFn fmt t = .ok v

/-- A command that discards a byte and reads a block ends with its format's verdict (40_core.md R164, R169, R171, R174, R176). -/
theorem exec_discardRead (hr : s.ready = true) (he : lookup commandTable i.id = some e) (hk : e.rk = .block)
    (hx : e.disc = true) (hm : settle e (encode i) ≤ m) (hn : ticks e.d2 ≤ n) (hl : bs.length ≤ e.rlen.toNat)
    (hi : s.inputs = settled x m (.answer (.ok (b :: y)) :: lastRead bs n rest)) (hv : Decodes e.fmt i.arg1 bs v) :
    exec i s = .next (readBlock s i.id i.arg0 i.arg1 i.arg2 (encode i) (.holds b) bs v.status (resultOf v)
      (busWrite (encode i) x ++ busByte (b :: y) ++ busBlock e.raddr e.rlen bs) rest) := by
  rw [exec_settled hr he hm hi, drive_toByte rfl rfl rfl he (.inr ⟨hk, hx⟩), drive_discarded rfl rfl he hk,
    drive_lastRead rfl rfl he hn hl (by exact hv), finish_of_unwritten rfl]
  simp [afterSettle, readBlock, busWrite, busByte, busBlock]

/-! ### What each format answers -/

/-- A block that is long enough is decoded by the format's own rule (40_core.md R180, R187). -/
theorem decodes_of_block (hl : bytesNeeded fmt ≤ bs.length)
    (hv : ∀ t : State, t.arg1 = .holds a1 → t.resp = bs → decodeBlock Config.thermFn fmt t = .ok v) :
    Decodes fmt a1 bs v := by
  intro t h1 hresp hrcnt
  have hlong : t.short fmt = false := by simp [State.short, hrcnt, hresp, hl]
  rw [decodePayload, hlong, if_neg Bool.false_ne_true, hv t h1 hresp]

/-- A short block is no data (40_core.md R187). -/
theorem decodes_short (hl : bs.length < bytesNeeded fmt) : Decodes fmt a1 bs .noData := by
  intro t _ hresp hrcnt
  have hshort : t.short fmt = true := by simp [State.short, hrcnt, hresp, hl]
  rw [decodePayload, hshort, if_pos rfl]

theorem decodes_u16be : Decodes .u16be a1 (b0 :: b1 :: b2 :: tail) (.ok (.u16 (BitVec.ofNat 16 (comp16 b1 b2)))) :=
  decodes_of_block (Nat.le_add_left 3 _) fun t _ hresp => by simp only [decodeBlock, hresp, decodeU16be]

/-- The thermistor's format answers `THERM_FN`'s value of the composite `a` with the coefficient `k`, or an invalid reading (40_core.md
R191; 41_gpio.md R227). -/
theorem decodes_therm {a : Nat} {k : BCoeff} (ha : b1.toNat * 256 + b2.toNat = a)
    (hk : (if a1.toNat % 256 = 1 ∨ a1.toNat % 256 = 2 then .b4250 else .b3975) = k) :
    Decodes .therm a1 (b0 :: b1 :: b2 :: tail)
      (if a = 0 ∨ 1023 ≤ a ∨ isNaN64 (Config.thermFn a k) = true then .invalidReading
        else .ok (.temp (Config.thermFn a k))) := by
  intro t h1 hresp hrcnt
  rw [Builds.decodePayload_therm h1 hresp hrcnt, Builds.thermValue_eq, Builds.bsel_eq, hk, comp16, ha]

theorem decodes_ver : Decodes .ver a1 (b0 :: b1 :: b2 :: b3 :: tail) (.ok (.version b1 b2 b3)) :=
  decodes_of_block (Nat.le_add_left 4 _) fun t _ hresp => by simp only [decodeBlock, hresp, decodeVer]

theorem decodes_acc3 : Decodes .acc3 a1 (b0 :: b1 :: b2 :: b3 :: tail) (.ok (.acc (fold b1) (fold b2) (fold b3))) :=
  decodes_of_block (Nat.le_add_left 4 _) fun t _ hresp => by simp only [decodeBlock, hresp, decodeAcc3]

/-- The raw format answers a block of five bytes as it is (40_core.md R195). -/
theorem decodes_raw (hl : bs.length = 5) : Decodes .raw a1 bs (.ok (.raw bs)) :=
  decodes_of_block hl.ge fun t _ hresp => by
    match bs, hl with
    | [_, _, _, _, _], _ => simp only [decodeBlock, hresp, decodeRaw]

/-- A NaN in either span is an invalid reading, and otherwise both are rounded (40_core.md R190). -/
theorem decodes_dht (t0 t1 t2 t3 h0 h1 h2 h3 : Byte) :
    Decodes .dht a1 [b0, t0, t1, t2, t3, h0, h1, h2, h3]
      (if isNaN32 (f32le t0 t1 t2 t3) = true ∨ isNaN32 (f32le h0 h1 h2 h3) = true then .invalidReading
        else .ok (.dht (rnd2 (f32le t0 t1 t2 t3)) (rnd2 (f32le h0 h1 h2 h3)))) :=
  decodes_of_block (le_refl 9) fun t _ hresp => by
    simp only [decodeBlock, hresp, decodeDht, Bool.or_eq_true]
    split <;> rfl

theorem isSentinel_iff : isSentinel b = true ↔ b = 255 := beq_iff_eq

/-- The IR format answers "no data" at the sentinel, and otherwise the whole block of 21 bytes (40_core.md R194). -/
theorem decodes_ir (hl : tail.length = 19) :
    Decodes .ir a1 (b0 :: b1 :: tail) (if b1 = 255 then .noData else .ok (.raw (b0 :: b1 :: tail))) := by
  have hlen : (b0 :: b1 :: tail).length = 21 := congrArg (· + 2) hl
  refine decodes_of_block hlen.ge fun t _ hresp => ?_
  simp only [decodeBlock, hresp, decodeIr, hlen, lt_irrefl, if_false, List.getElem?_cons_succ, List.getElem?_cons_zero,
    Option.any_some, isSentinel_iff, List.take_of_length_le hlen.le]
  split <;> rfl

/-- A sentinel format answers "no data" at a header of 255, and otherwise the header with the little-endian value of the bytes after it
(40_core.md R192, R193). -/
theorem decodeSent_cons (hl : n ≤ (b :: tail).length) :
    decodeSent n (b :: tail) =
      .ok (if b = 255 then .noData else .ok (.sent b (le (tail.take (n - 1))))) := by
  simp only [decodeSent, if_neg (not_lt.mpr hl), isSentinel_iff]
  split <;> rfl

theorem decodes_sent2 :
    Decodes .sent2 a1 (b0 :: b1 :: tail) (if b0 = 255 then .noData else .ok (.sent b0 b1.toNat)) :=
  decodes_of_block (Nat.le_add_left 2 _) fun t _ hresp => by
    simp only [decodeBlock, hresp]
    exact decodeSent_cons (Nat.le_add_left 2 _)

theorem decodes_sent3 :
    Decodes .sent3 a1 (b0 :: b1 :: b2 :: tail)
      (if b0 = 255 then .noData else .ok (.sent b0 (b1.toNat + 256 * b2.toNat))) :=
  decodes_of_block (Nat.le_add_left 3 _) fun t _ hresp => by
    simp only [decodeBlock, hresp]
    exact decodeSent_cons (Nat.le_add_left 3 _)

theorem decodes_sent4 :
    Decodes .sent4 a1 (b0 :: b1 :: b2 :: b3 :: tail)
      (if b0 = 255 then .noData else .ok (.sent b0 (b1.toNat + 256 * b2.toNat + 65536 * b3.toNat))) := by
  have hle : le [b1, b2, b3] = b1.toNat + 256 * b2.toNat + 65536 * b3.toNat := by simp only [le]; omega
  rw [← hle]
  refine decodes_of_block (Nat.le_add_left 4 _) fun t _ hresp => ?_
  simp only [decodeBlock, hresp]
  exact decodeSent_cons (Nat.le_add_left 4 _)

/-! ### The reads of each command -/

/-- Settles O25: the byte row of `digital_read`. -/
theorem digitalReadCompletes : Obligations.DigitalReadCompletes := by
  intro s a0 a1 a2 x y b m n rest hr hm hi
  exact exec_readByte (i := .digitalRead a0 a1 a2) hr rfl rfl rfl hm n.zero_le hi

/-- Settles O26: two block rows with a discarded byte, decoded by `F_U16BE`. -/
theorem analogAndUltrasonicReadsComplete : Obligations.AnalogAndUltrasonicReadsComplete := by
  intro s a0 a1 a2 x y more b b0 hi lo m n rest hr hmore hin
  have hfit : (b0 :: hi :: lo :: more).length ≤ 5 := Nat.add_le_add_right hmore 3
  exact ⟨fun hm hn => exec_discardRead (i := .analogRead a0 a1 a2) hr rfl rfl rfl hm hn hfit hin decodes_u16be,
    fun hm => exec_discardRead (i := .ultrasonicRead a0 a1 a2) hr rfl rfl rfl hm n.zero_le hfit hin decodes_u16be⟩

/-- Settles O27: the block row of `therm_read`, decoded by `F_THERM`. -/
theorem thermReadCompletes : Obligations.ThermReadCompletes := by
  intro s a0 a1 a2 x y more b b0 hi lo m n rest hr hmore hm hn hin
  have hfit : (b0 :: hi :: lo :: more).length ≤ 5 := Nat.add_le_add_right hmore 3
  generalize ha : hi.toNat * 256 + lo.toNat = a
  generalize hk : (if a1.toNat % 256 = 1 ∨ a1.toNat % 256 = 2 then BCoeff.b4250 else .b3975) = k
  rw [exec_discardRead (i := .thermRead a0 a1 a2) hr rfl rfl rfl hm hn hfit hin (decodes_therm ha hk)]
  split <;> rfl

/-- Settles O28: two block rows with a discarded byte, decoded by `F_VER` and `F_RAW`. -/
theorem versionAndRtcReadsComplete : Obligations.VersionAndRtcReadsComplete := by
  intro s a0 a1 a2 x y more b b0 b1 b2 b3 m n rest hr hm hin
  refine ⟨fun hmore => ?_, fun hmore => ?_⟩
  · have hfit : (b0 :: b1 :: b2 :: b3 :: more).length ≤ 5 := Nat.add_le_add_right hmore 4
    exact exec_discardRead (i := .version a0 a1 a2) hr rfl rfl rfl hm n.zero_le hfit hin decodes_ver
  · have hfive : (b0 :: b1 :: b2 :: b3 :: more).length = 5 := congrArg (· + 4) hmore
    exact exec_discardRead (i := .rtcGetTime a0 a1 a2) hr rfl rfl rfl hm n.zero_le hfive.le hin (decodes_raw hfive)

/-- Settles O29: the block row of `acc_xyz`, decoded by `F_ACC3`. -/
theorem accelerometerReadCompletes : Obligations.AccelerometerReadCompletes := by
  intro s a0 a1 a2 x more b0 b1 b2 b3 m n rest hr hm hmore hin
  have hfit : (b0 :: b1 :: b2 :: b3 :: more).length ≤ 5 := Nat.add_le_add_right hmore 4
  exact exec_readBlock (i := .accXyz a0 a1 a2) hr rfl rfl rfl hm n.zero_le hfit hin decodes_acc3

/-- Settles O30: the block row of `dht_read`, decoded by `F_DHT`. -/
theorem dhtReadCompletes : Obligations.DhtReadCompletes := by
  intro s a0 a1 a2 x b0 t0 t1 t2 t3 h0 h1 h2 h3 m n rest hr hm hn hin
  have hrun := exec_readBlock (i := .dhtRead a0 a1 a2) hr rfl rfl rfl hm hn (le_refl 9) hin
    (decodes_dht t0 t1 t2 t3 h0 h1 h2 h3)
  rw [hrun]
  split <;> rfl

/-- Settles O37: the block row of `ir_read`, decoded by `F_IR`. -/
theorem irReadCompletes : Obligations.IrReadCompletes := by
  intro s a0 a1 a2 x more b0 b1 m n rest hr hm hmore hin
  have hfit : (b0 :: b1 :: more).length ≤ 21 := (congrArg (· + 2) hmore).le
  rw [exec_readBlock (i := .irRead a0 a1 a2) hr rfl rfl rfl hm n.zero_le hfit hin (decodes_ir hmore)]
  split <;> rfl

/-- Settles O38: three block rows, decoded by `F_SENT4`, `F_SENT2` and `F_SENT3`. -/
theorem sentinelReadsComplete : Obligations.SentinelReadsComplete := by
  intro s a0 a1 a2 x h b1 b2 b3 m n rest hr hm
  refine ⟨fun more hmore hin => ?_, fun more hmore hin => ?_, fun more hmore hin => ?_⟩
  · have hfit : (h :: b1 :: b2 :: b3 :: more).length ≤ 5 := Nat.add_le_add_right hmore 4
    rw [exec_readBlock (i := .dustRead a0 a1 a2) hr rfl rfl rfl hm n.zero_le hfit hin decodes_sent4]
    split <;> rfl
  · have hfit : (h :: b1 :: more).length ≤ 5 := Nat.add_le_add_right hmore 2
    rw [exec_readBlock (i := .encRead a0 a1 a2) hr rfl rfl rfl hm n.zero_le hfit hin decodes_sent2]
    split <;> rfl
  · have hfit : (h :: b1 :: b2 :: more).length ≤ 5 := Nat.add_le_add_right hmore 3
    rw [exec_readBlock (i := .flowRead a0 a1 a2) hr rfl rfl rfl hm n.zero_le hfit hin decodes_sent3]
    split <;> rfl

/-- Settles O39: a short block fits the read, since a row asks for at least the bytes its format needs. -/
theorem shortBlocksAreNoData : Obligations.ShortBlocksAreNoData := by
  intro i e s x bs m n rest hr he hk hshort hm hn
  have hfit : bs.length ≤ e.rlen.toNat := hshort.le.trans (Registers.bytesNeeded_le_rlen he hk)
  exact ⟨fun hx hin => exec_readBlock hr he hk hx hm hn hfit hin (decodes_short hshort),
    fun b y hx hin => exec_discardRead hr he hk hx hm hn hfit hin (decodes_short hshort)⟩

/-! ### The monitor mode -/

/-- Fewer ticks than the delay register holds count down to the difference (40_core.md R168). -/
theorem drive_ticks_short (hw : s.phase.waiting = true) (hm : m ≤ s.dly.toNat) :
    ∃ t, drive G (List.replicate m .tick) s = .next t ∧ t.phase = s.phase ∧ t.dly.toNat + m = s.dly.toNat := by
  induction m generalizing s with
  | zero => exact ⟨s, rfl, rfl, rfl⟩
  | succ m ih =>
    have hb : s.ready = false := by
      unfold State.ready; revert hw; cases s.phase <;> simp [Phase.ready, Phase.waiting]
    have hdly : (s.setInputs (List.replicate m .tick)).countTick.dly.toNat + 1 = s.dly.toNat := by
      have hne : s.dly ≠ 0 := by bv_omega
      rw [State.countTick_dly, if_pos (by simpa [hw] using hne), State.setInputs_dly]
      bv_omega
    obtain ⟨t, hrun, hp, hd⟩ := ih (s := (s.setInputs (List.replicate m .tick)).countTick) (by simpa using hw) (by omega)
    exact ⟨t, (drive_cons hb rfl).trans hrun, by simpa using hp, by omega⟩

/-- An acknowledged frame write and fewer ticks than the settle count leave the command in its settle wait. -/
theorem exec_unsettled (hr : s.ready = true) (he : lookup commandTable i.id = some e) (hm : m ≤ settle e (encode i))
    (hi : s.inputs = .answer (.ok x) :: List.replicate m .tick) :
    ∃ t, exec i s = .next t ∧ t.phase = .wait1 ∧ t.dly.toNat + m = settle e (encode i) := by
  have hsettle : settle e (encode i) < 2 ^ 32 := (settle_le he _).trans_lt (by norm_num)
  have hload : (BitVec.ofNat 32 (settle e (encode i))).toNat = settle e (encode i) := by
    rw [BitVec.toNat_ofNat, Nat.mod_eq_of_lt hsettle]
  rw [exec_ready hr, hi, drive_cons rfl (EngineRules.engineStep_wrote rfl rfl he rfl x)]
  obtain ⟨t, hrun, hp, hd⟩ := drive_ticks_short (G := defaultParams) (m := m)
    (s := (((s.latch i.id i.arg0 i.arg1 i.arg2 (encode i)).setInputs (List.replicate m .tick)).note
      (.answered (.ok x))).loadDelay .wait1 (settle e (encode i))) rfl (hm.trans hload.ge)
  exact ⟨t, hrun, hp, hd.trans hload⟩

/-- Settles O34: the settle count of the monitor mode is that of `FRAME[3]`, the low byte of the duration (40_core.md R167). -/
theorem monitorModeHoldsForTheSentDuration : Obligations.MonitorModeHoldsForTheSentDuration := by
  intro s a0 a1 a2 x m rest hr
  refine ⟨fun hm hi => ?_, fun hm hi => ?_⟩
  · have hb : 1000 * (lo8 a2).toNat + 51 < 2 ^ 32 := by omega
    rw [← execWith_default]
    exact Builds.execWith_settled (G := defaultParams) (i := .fdMonitor a0 a1 a2) hr rfl rfl rfl hm hb hi
  · obtain ⟨t, hrun, hp, hd⟩ := exec_unsettled (i := .fdMonitor a0 a1 a2) hr rfl (hm.trans (Nat.le_succ _)) hi
    exact ⟨t, hrun, hp, by rw [State.ready, hp]; rfl, hd⟩

/-! ### Bus errors -/

/-- Settles O40: the failed write is the first answer. -/
theorem everyCommandTakesABusErrorOnItsWrite : Obligations.EveryCommandTakesABusErrorOnItsWrite := by
  intro i s d rest hr hi
  rw [exec_ready hr, hi, drive_failed rfl]
  simp [busErrored, State.takeBusError, State.note, State.setInputs, State.latch]

/-- Settles O41: the failed read is the first answer after the settle wait. -/
theorem byteReadFailureIsABusError : Obligations.ByteReadFailureIsABusError := by
  intro i e s x d m rest hr he hk hm hi
  rw [exec_settled hr he hm hi, drive_toByte rfl rfl rfl he hk, drive_failed rfl]
  simp [afterSettle, busErrored, busWrite, State.takeBusError, State.note, State.setInputs, State.latch, State.issueByte,
    State.loadDelay]

/-- Settles O42: the failed read follows the settle wait, or the discarded byte. -/
theorem blockReadFailureIsABusError : Obligations.BlockReadFailureIsABusError := by
  intro i e s x d m rest hr he hk hm
  refine ⟨fun hx hi => ?_, fun b y hx hi => ?_⟩
  · rw [exec_settled hr he hm hi, drive_toBlock rfl rfl rfl he hk hx, drive_failed rfl]
    simp [afterSettle, busErrored, busWrite, State.takeBusError, State.note, State.setInputs, State.latch, State.issueBlock,
      State.loadDelay]
  · rw [exec_settled hr he hm hi, drive_toByte rfl rfl rfl he (.inr ⟨hk, hx⟩), drive_discarded rfl rfl he hk, drive_failed rfl]
    simp [afterSettle, busErrored, busWrite, busByte, State.takeBusError, State.note, State.setInputs, State.latch, State.issueByte,
      State.issueBlock, State.setRb, State.loadDelay]

/-! ### A transport that never answers -/

/-- Without a reset or an answer a frame write stays presented through all the events (10_state.md R47). -/
theorem drive_unanswered (hp : s.phase = .write) (hrst : .rst ∉ es) (hans : ∀ a, .answer a ∉ es) (hi : s.inputs = es) :
    drive defaultParams es s = .next (s.setInputs []) := by
  induction es generalizing s with
  | nil => rw [drive_nil, ← hi, setInputs_self]
  | cons ev rest ih =>
    obtain ⟨hstable, -⟩ := Registers.onlyEnabledEventsAct
    have hstep : engineStep defaultParams ev (s.setInputs rest) = .next (s.setInputs rest) :=
      hstable _ ev (.inl hp) (fun h => hrst (h ▸ List.mem_cons_self)) (fun a h => hans a (h ▸ List.mem_cons_self))
    rw [drive_cons (by rw [State.ready, hp]; rfl) hstep]
    exact ih (s := s.setInputs rest) hp (fun h => hrst (List.mem_cons_of_mem ev h))
      (fun a h => hans a (List.mem_cons_of_mem ev h)) rfl

/-- Settles O43: the accept presents the frame write, and no event but an answer or a reset ends it. -/
theorem unansweredWriteBlocksTheEngine : Obligations.UnansweredWriteBlocksTheEngine := by
  intro i s hr hrst hans
  have hrun := (exec_ready (i := i) hr).trans (drive_unanswered rfl hrst hans rfl)
  exact ⟨_, hrun, rfl, rfl, rfl, rfl, rfl⟩

end Sys2Proof.Proofs.Commands

/-! PROOFS. The statements about the payload's arithmetic (40_core.md R180 to R198): the composites, the fold, the version's numerals, the
bytes of a binary32 and the rounding to two decimals. -/

namespace Sys2Proof.Proofs.Arithmetic

open Sys2Proof.Machine Sys2Proof.Claims

variable {num den : Nat} {f : Binary32}

/-! ### Composites and the fold -/

/-- A byte and a number shifted past it have no bit in common. -/
theorem xor_shift_eq_or (lo : Byte) (n : Nat) : lo.toNat ^^^ (n <<< 8) = lo.toNat ||| (n <<< 8) := by
  refine Nat.eq_of_testBit_eq fun j => ?_
  rw [Nat.testBit_xor, Nat.testBit_or, Nat.testBit_shiftLeft]
  rcases lt_or_ge j 8 with hj | hj
  · simp [not_le.mpr hj]
  · have hlo : lo.toNat.testBit j = false :=
      Nat.testBit_lt_two_pow (lo.isLt.trans_le (Nat.pow_le_pow_right (by norm_num) hj))
    simp [hlo]

/-- The composite of 40_core.md R182 is that of R181. -/
theorem compXor16_eq_comp16 (lo hi : Byte) : compXor16 lo hi = comp16 hi lo := by
  rw [compXor16, xor_shift_eq_or, Nat.or_comm, ← Nat.shiftLeft_add_eq_or_of_lt lo.isLt, Nat.shiftLeft_eq, comp16]

/-- Settles O51: the bits of the two bytes do not overlap. -/
theorem compositeSpellingsAgree : Obligations.CompositeSpellingsAgree :=
  fun lo hi => ⟨compXor16_eq_comp16 lo hi, xor_shift_eq_or lo hi.toNat⟩

/-- Settles O52: by the values of the two bytes of the split. -/
theorem compositeInvertsTheSplit : Obligations.CompositeInvertsTheSplit := by
  intro v hv
  obtain ⟨hlo, hhi, -⟩ := Encoding.frameBytesTruncateTheArgument v
  have hcomp : comp16 (hi8 v) (lo8 v) = v.toNat := by rw [comp16, hlo, hhi]; omega
  exact ⟨hcomp, (compXor16_eq_comp16 _ _).trans hcomp⟩

/-- Settles O53: the two branches of the fold, its range, and four of its values. -/
theorem foldOfASignedOffsetByte : Obligations.FoldOfASignedOffsetByte := by
  refine ⟨fun b => ⟨fun hb => if_pos hb, fun hb => if_neg (not_le.mpr hb), fold_range b⟩, rfl, rfl, rfl, rfl⟩

/-! ### The version's numerals -/

/-- The ASCII digit of a number's last decimal place. -/
def digit (n : Nat) : Char := Char.ofNat (48 + n % 10)

theorem decimal_eq (x : Byte) :
    decimal x =
      if x.toNat < 10 then [digit x.toNat]
      else if x.toNat < 100 then [digit (x.toNat / 10), digit x.toNat]
      else [digit (x.toNat / 100), digit (x.toNat / 10), digit x.toNat] := rfl

theorem digit_toNat (n : Nat) : (digit n).toNat = 48 + n % 10 := by
  have hvalid : (48 + n % 10).isValidChar := Or.inl (by omega)
  rw [digit, Char.toNat_ofNat, if_pos hvalid]

theorem digit_ne_zero {n : Nat} (h : n % 10 ≠ 0) : digit n ≠ '0' := by
  intro hzero
  have hcode : 48 + n % 10 = 48 := (digit_toNat n).symm.trans (congrArg Char.toNat hzero)
  omega

/-- Every character of a numeral is a digit. -/
theorem exists_digit_of_mem {x : Byte} {ch : Char} (h : ch ∈ decimal x) : ∃ n, ch = digit n := by
  rw [decimal_eq] at h
  split_ifs at h <;> simp only [List.mem_cons, List.not_mem_nil, or_false] at h
  · exact ⟨_, h⟩
  · rcases h with h | h <;> exact ⟨_, h⟩
  · rcases h with h | h | h <;> exact ⟨_, h⟩

/-- The digits of a numeral, read in base ten, are the byte's value. -/
theorem decimal_value (x : Byte) : (decimal x).foldl (fun n ch => 10 * n + (ch.toNat - 48)) 0 = x.toNat := by
  have hx := x.isLt
  rw [decimal_eq]
  split_ifs <;> simp only [List.foldl_cons, List.foldl_nil, digit_toNat] <;> omega

/-- The numeral of a nonzero byte begins with no zero. -/
theorem decimal_head {x : Byte} (hx : x ≠ 0) : (decimal x).head? ≠ some '0' := by
  have hlt := x.isLt
  have hpos : x.toNat ≠ 0 := fun h => hx (BitVec.eq_of_toNat_eq h)
  have head {n : Nat} {ds : List Char} (h : n % 10 ≠ 0) : (digit n :: ds).head? ≠ some '0' := by
    rw [List.head?_cons]
    exact fun heq => digit_ne_zero h (Option.some.inj heq)
  rw [decimal_eq]
  split_ifs <;> exact head (by omega)

/-- Settles O55: the numeral by its number of digits. -/
theorem versionRendersAsDecimals : Obligations.VersionRendersAsDecimals := by
  refine ⟨fun a b c => by simp [renderVersion], fun x => ⟨decimal_value x, fun ch hch => ?_, decimal_head, ?_⟩⟩
  · obtain ⟨n, rfl⟩ := exists_digit_of_mem hch
    rw [digit_toNat]
    omega
  · rintro rfl
    rfl

/-! ### The bytes of a binary32 -/

theorem f32le_toNat (b0 b1 b2 b3 : Byte) :
    (f32le b0 b1 b2 b3).toNat = b3.toNat * 2 ^ 24 + b2.toNat * 2 ^ 16 + b1.toNat * 2 ^ 8 + b0.toNat := by
  rw [f32le, toNat_append_byte, toNat_append_byte, toNat_append_byte]
  omega

/-- Settles O56: by the weights of the four bytes. -/
theorem floatBytesRoundTrip : Obligations.FloatBytesRoundTrip := by
  refine ⟨f32le_toNat, fun f => BitVec.eq_of_toNat_eq ?_⟩
  have hf := f.isLt
  simp only [f32le_toNat, BitVec.extractLsb'_toNat, Nat.shiftRight_eq_div_pow]
  omega

/-! ### Rounding to two decimals -/

theorem expo32_eq (f : Binary32) : expo32 f = f.toNat / 2 ^ 23 % 256 := by
  rw [expo32, BitVec.extractLsb'_toNat, Nat.shiftRight_eq_div_pow]

theorem frac32_eq (f : Binary32) : frac32 f = f.toNat % 2 ^ 23 := by
  rw [frac32, BitVec.extractLsb'_toNat, Nat.shiftRight_zero]

theorem sign32_iff (f : Binary32) : sign32 f = true ↔ f.toNat / 2 ^ 31 = 1 := by
  have hf := f.isLt
  rw [sign32, BitVec.msb_eq_decide, decide_eq_true_eq]
  omega

theorem expo32_eq_255 (f : Binary32) : expo32 f = 255 ↔ expoOnes f := by rw [expo32_eq, expoOnes]

/-- A significand at the exponent `e`, in the units of the exponent 1. -/
theorem scaled_eq (m b : Nat) {e : Nat} (he : e ≠ 0) :
    (m : ℚ) * 2 ^ ((e : ℤ) - (b + 1 : ℕ)) = (m * 2 ^ (e - 1) : ℕ) / 2 ^ b := by
  obtain ⟨k, rfl⟩ := Nat.exists_eq_succ_of_ne_zero he
  have hexp : ((k.succ : ℕ) : ℤ) - (b + 1 : ℕ) = (k : ℤ) - (b : ℤ) := by push_cast; ring
  rw [hexp, zpow_sub₀ two_ne_zero, zpow_natCast, zpow_natCast, Nat.succ_sub_one]
  push_cast
  rw [mul_div_assoc]

/-- The magnitude counts the exact value in units of 2^-149 (40_core.md R189). -/
theorem exact32_eq (f : Binary32) :
    exact32 f = (if sign32 f then -1 else 1) * (magnitude32 f / 2 ^ 149) := by
  simp only [exact32, sign32_iff]
  congr 1
  rw [magnitude32, frac32_eq, expo32_eq]
  split
  · rw [zpow_neg, ← div_eq_mul_inv]
    norm_cast
  · exact scaled_eq _ 149 ‹_›

/-- Rounding a quotient: the distance to it is at most half the denominator, and a tie goes to an even number. -/
theorem rneDiv_nearest (hd : 0 < den) :
    2 * |(num : ℤ) - den * rneDiv num den| ≤ den ∧
      (2 * |(num : ℤ) - den * rneDiv num den| = den → Even (rneDiv num den)) := by
  have hmod := Nat.mod_lt num hd
  have hnum : (num : ℤ) = den * (num / den : ℕ) + (num % den : ℕ) := by exact_mod_cast (Nat.div_add_mod num den).symm
  unfold rneDiv
  generalize num / den = q at *
  generalize num % den = r at *
  split
  case isTrue h =>
    have habs : |(num : ℤ) - den * (q + 1 : ℕ)| = den - r := by
      rw [hnum, abs_of_nonpos] <;> push_cast <;> linarith [(Nat.cast_lt (α := ℤ)).mpr hmod]
    rw [habs, Nat.even_iff]
    omega
  case isFalse h =>
    have habs : |(num : ℤ) - den * q| = r := by
      rw [hnum, add_sub_cancel_left, abs_of_nonneg (Int.natCast_nonneg r)]
    rw [habs, Nat.even_iff]
    omega

/-- The rounded quotient is the nearest natural number to the quotient, a tie going to the even one (40_core.md R189, `RNE`). -/
theorem rneDiv_close_even (hd : 0 < den) :
    |(num / den : ℚ) - rneDiv num den| ≤ 1 / 2 ∧
      (|(num / den : ℚ) - rneDiv num den| = 1 / 2 → Even (rneDiv num den)) := by
  obtain ⟨hclose, htie⟩ := rneDiv_nearest (num := num) hd
  have hd' : (0 : ℚ) < den := by exact_mod_cast hd
  generalize rneDiv num den = k at *
  have habs : |(num / den : ℚ) - k| = (|(num : ℤ) - den * k| : ℤ) / den := by
    rw [div_sub' hd'.ne', abs_div, abs_of_pos hd']
    push_cast
    rfl
  rw [habs]
  constructor
  · rw [div_le_iff₀ hd']
    have : (2 * |(num : ℤ) - den * k| : ℚ) ≤ den := by exact_mod_cast hclose
    push_cast at this ⊢
    linarith
  · intro h
    refine htie ?_
    rw [div_eq_iff hd'.ne'] at h
    have : (2 * |(num : ℤ) - den * k| : ℚ) = den := by push_cast at h ⊢; linarith
    exact_mod_cast this

/-- A finite datum is rounded in its magnitude, and keeps its sign. -/
theorem rnd2_finite (hf : ¬ expoOnes f) :
    rnd2 f = .fin ((if sign32 f then -1 else 1) * (rneDiv (magnitude32 f * 100) (2 ^ 149) : ℕ)) := by
  rw [rnd2, if_neg (mt (expo32_eq_255 f).mp hf)]
  split
  · rw [neg_one_mul]
  · rw [one_mul]

/-- A sign does not change a distance. -/
theorem abs_sign_mul (p : Prop) [Decidable p] (x : ℚ) : |(if p then -1 else 1) * x| = |x| := by
  split <;> simp

/-- A sign does not change parity. -/
theorem even_sign_mul (p : Prop) [Decidable p] {k : ℕ} (hk : Even k) : Even ((if p then -1 else 1) * (k : ℤ)) :=
  Even.mul_left ((Int.even_coe_nat k).mpr hk) _

/-- A finite datum goes to the integer nearest to its exact value times 100, a tie to the even one (40_core.md R189). -/
theorem rnd2_nearest (hf : ¬ expoOnes f) :
    ∃ n : ℤ, rnd2 f = .fin n ∧ |exact32 f * 100 - n| ≤ 1 / 2 ∧ (|exact32 f * 100 - n| = 1 / 2 → Even n) := by
  obtain ⟨hclose, htie⟩ := rneDiv_close_even (num := magnitude32 f * 100) (den := 2 ^ 149) (Nat.two_pow_pos _)
  refine ⟨_, rnd2_finite hf, ?_⟩
  generalize rneDiv (magnitude32 f * 100) (2 ^ 149) = k at *
  have hdist : exact32 f * 100 - (((if sign32 f then -1 else 1) * (k : ℤ) : ℤ) : ℚ) =
      (if sign32 f then -1 else 1) * (((magnitude32 f * 100 : ℕ) / (2 ^ 149 : ℕ) : ℚ) - k) := by
    rw [exact32_eq]
    push_cast
    ring
  rw [hdist, abs_sign_mul]
  exact ⟨hclose, fun h => even_sign_mul _ (htie h)⟩

theorem isNaN32_iff (f : Binary32) : isNaN32 f = true ↔ expoOnes f ∧ ¬ fracZero f := by
  rw [isNaN32, Bool.and_eq_true, beq_iff_eq, bne_iff_ne, expo32_eq_255, frac32_eq, fracZero]

/-- Settles O57: the nearest integer of a finite datum, the sign of an infinity and the fields of a NaN. -/
theorem roundingIsExactToNearestEven : Obligations.RoundingIsExactToNearestEven := by
  refine ⟨fun f hf => ?_, fun f hf _ => ?_, isNaN32_iff⟩
  · obtain ⟨n, hn, hclose, htie⟩ := rnd2_nearest hf
    refine ⟨n, hn, hclose, htie, ?_⟩
    have hscale : |exact32 f - n / 100| = |exact32 f * 100 - n| / 100 := by
      rw [← abs_of_pos (show (0 : ℚ) < 100 by norm_num), ← abs_div, abs_of_pos (show (0 : ℚ) < 100 by norm_num)]
      congr 1
      ring
    rw [hscale]
    linarith
  · rw [rnd2, if_pos ((expo32_eq_255 f).mpr hf)]
    simp only [sign32_iff]

end Sys2Proof.Proofs.Arithmetic


/-! PROOFS. The statement about the reference conversion of the thermistor: from the denominator's accuracy (Laws/Thermistor.lean) to that
of the temperature, and from the temperature to its pattern. -/

namespace Sys2Proof.Proofs.Thermistor

open Sys2Proof.Machine Sys2Proof.Claims

variable {a : Nat} {b : BCoeff} {x : Datum64} {v D D0 : ℝ}

/-! ### The pattern of a finite datum -/

/-- A natural number of units with its exponent and fraction fields has the pattern's exact value. -/
theorem exact64_of_fields {t : Binary64} {s : Bool} {e f n : Nat} (he : e < 2047) (hf : f < 2 ^ 52)
    (ht : t.toNat = (if s then 2 ^ 63 else 0) + e * 2 ^ 52 + f)
    (hn : n = if e = 0 then f else (2 ^ 52 + f) * 2 ^ (e - 1)) :
    exact64 t = (if s then -1 else 1) * (n / 2 ^ 1074) := by
  have hsign : t.toNat / 2 ^ 63 = 1 ↔ s = true := by cases s <;> simp only [ht] <;> simp <;> omega
  have hexpo : t.toNat / 2 ^ 52 % 2048 = e := by cases s <;> simp only [ht] <;> simp <;> omega
  have hfrac : t.toNat % 2 ^ 52 = f := by cases s <;> simp only [ht] <;> simp <;> omega
  simp only [exact64, hsign, hexpo, hfrac]
  congr 1
  rw [hn]
  split
  · rw [zpow_neg, ← div_eq_mul_inv]
    norm_cast
  · exact Arithmetic.scaled_eq _ 1074 ‹_›

/-- The pattern of a datum with a value has an exponent field below the all-ones one, and that exact value. -/
theorem pattern64_of_hasValue (h : x.HasValue v) :
    (pattern64 x).toNat / 2 ^ 52 % 2048 ≠ 2047 ∧ (exact64 (pattern64 x) : ℝ) = v := by
  obtain ⟨s, n, rfl, hlimit, hrepr, hv⟩ := h
  obtain ⟨e, f, he, hf, ht, hn⟩ := pattern64_fields (s := s) hlimit hrepr
  constructor
  · rw [ht]
    cases s <;> simp <;> omega
  · have hunit : (one64 : ℝ) = 2 ^ 1074 := by unfold one64; exact Nat.cast_pow 2 1074
    rw [exact64_of_fields he hf ht hn, eq_div_of_mul_eq one64_pos.ne' hv, hunit, sgn]
    split <;> push_cast <;> ring

/-- A pattern whose exponent field is not all ones is no NaN. -/
theorem isNaN64_of_expo {t : Binary64} (h : t.toNat / 2 ^ 52 % 2048 ≠ 2047) : isNaN64 t = false := by
  have hexpo : t.extractLsb' 52 11 ≠ 2047 := by
    intro heq
    have hval := congrArg BitVec.toNat heq
    rw [BitVec.extractLsb'_toNat, Nat.shiftRight_eq_div_pow] at hval
    exact h hval
  rw [isNaN64, beq_eq_false_iff_ne.mpr hexpo, Bool.false_and]

/-! ### The temperature -/

/-- Close denominators that are not small have close inverses. -/
theorem inv_close (h0 : 0.0015 ≤ D0) (h : |D - D0| ≤ 1 / 2 ^ 52) : 0.001 ≤ D ∧ |1 / D - 1 / D0| ≤ 2 / 10 ^ 10 := by
  have hD := abs_le.mp h
  have hD1 : 0.001 ≤ D := by norm_num at hD h0 ⊢; linarith
  have hpos : 0 < D := lt_of_lt_of_le (by norm_num) hD1
  have hpos0 : 0 < D0 := lt_of_lt_of_le (by norm_num) h0
  refine ⟨hD1, ?_⟩
  have hdiff : 1 / D - 1 / D0 = (D0 - D) / (D * D0) := by field_simp
  rw [hdiff, abs_div, abs_sub_comm, abs_of_pos (mul_pos hpos hpos0), div_le_iff₀ (mul_pos hpos hpos0)]
  have hprod : 0.001 * 0.0015 ≤ D * D0 := mul_le_mul hD1 h0 (by norm_num) hpos.le
  norm_num at h hprod ⊢
  linarith

/-- The binary64 temperature has a value within 1e-9 of the formula over the reals (41_gpio.md R226). -/
theorem temperature64_close (h1 : 1 ≤ a) (h2 : a ≤ 1022) :
    ∃ v, (temperature64 a b).HasValue v ∧ |v - thermReference a b| ≤ 1 / 10 ^ 9 := by
  obtain ⟨hD0, D, hD, hclose⟩ := denominator64_close a b h1 h2
  obtain ⟨hDlow, hinv⟩ := inv_close hD0 hclose
  rw [thermReference]
  generalize thermDenominator a b = D0 at *
  have hpos : 0 < D := lt_of_lt_of_le (by norm_num) hDlow
  have hinvle : 1 / D ≤ 1000 := by
    rw [div_le_iff₀ hpos]; norm_num at hDlow ⊢; linarith
  have hinvabs : |((1 : ℕ) : ℝ) / D| = 1 / D := by rw [Nat.cast_one, abs_of_pos (one_div_pos.mpr hpos)]
  obtain ⟨Q, hQ, hQclose⟩ := div64_close (literal64_exact (i := 1) (by norm_num)) hD hpos.ne'
    (hinvabs.le.trans (hinvle.trans (by norm_num)))
  obtain ⟨K, hK, hKclose⟩ := literal64_close (num := 27315) (den := 100) (by norm_num) (by norm_num)
  have hQ' : |Q - 1 / D| ≤ 1 / 10 ^ 12 := by
    rw [hinvabs, Nat.cast_one] at hQclose
    norm_num at hQclose hinvle ⊢
    linarith
  have hK' : |K - 273.15| ≤ 1 / 10 ^ 12 := by
    norm_num at hKclose ⊢
    linarith
  have hQK : |Q - K| ≤ 2000 := by
    have hq := abs_le.mp hQ'
    have hk := abs_le.mp hK'
    have hnonneg : 0 ≤ 1 / D := (one_div_pos.mpr hpos).le
    generalize 1 / D = R at *
    rw [abs_le]
    norm_num at hq hk ⊢
    constructor <;> linarith
  obtain ⟨v, hv, hvclose⟩ := sub64_close hQ hK (hQK.trans (by norm_num))
  have hv' : |v - (Q - K)| ≤ 1 / 10 ^ 11 := by
    norm_num at hvclose ⊢
    linarith
  refine ⟨v, hv, ?_⟩
  calc |v - (1 / D0 - 273.15)|
      = |(v - (Q - K)) + (Q - 1 / D) + (1 / D - 1 / D0) - (K - 273.15)| := by congr 1; ring
    _ ≤ |v - (Q - K)| + |Q - 1 / D| + |1 / D - 1 / D0| + |K - 273.15| :=
        (abs_sub _ _).trans (add_le_add_left (abs_add_three _ _ _) _)
    _ ≤ 1 / 10 ^ 11 + 1 / 10 ^ 12 + 2 / 10 ^ 10 + 1 / 10 ^ 12 := by gcongr
    _ ≤ 1 / 10 ^ 9 := by norm_num

/-- The formula's resistance is positive on the domain. -/
theorem thermResistance_pos (h1 : 1 ≤ a) (h2 : a ≤ 1022) : 0 < thermResistance a := by
  have ha : (1 : ℝ) ≤ a := by exact_mod_cast h1
  have ha' : (a : ℝ) ≤ 1022 := by exact_mod_cast h2
  exact div_pos (mul_pos (by linarith) (by norm_num)) (by linarith)

/-- Settles O58: the temperature's value is within 1e-9 of the formula, and its pattern has that value. -/
theorem thermistorReferenceIsDefined : Obligations.ThermistorReferenceIsDefined := by
  refine ⟨fun a b h1 h2 => ?_, rfl, build_eq Builds.tableOk_commandTable⟩
  obtain ⟨hden, -⟩ := denominator64_close a b h1 h2
  obtain ⟨v, hv, hclose⟩ := temperature64_close (b := b) h1 h2
  obtain ⟨hexpo, hexact⟩ := pattern64_of_hasValue hv
  have hnan : isNaN64 (thermReference64 a b) = false := isNaN64_of_expo hexpo
  refine ⟨⟨thermResistance_pos h1 h2, lt_of_lt_of_le (by norm_num) hden⟩, hexpo, hnan, ?_, ?_⟩
  · have hdomain : ¬ (a = 0 ∨ 1023 ≤ a ∨ isNaN64 (thermReference64 a b) = true) := by
      simp only [hnan, Bool.false_eq_true, or_false]
      omega
    rw [Builds.thermValue_eq, if_neg hdomain]
  · rw [thermReference64, hexact]
    exact hclose

end Sys2Proof.Proofs.Thermistor

/-! PROOFS. The statements about GPIO: the commands that only write, each with the frame of its encoder, and the B-coefficient of a model
selector (41_gpio.md R221 to R227). -/

namespace Sys2Proof.Proofs.Gpio

open Sys2Proof.Machine Sys2Proof.Claims

variable {s : State} {i : Instr} {e : CtEntry} {x : List Byte} {m : Nat} {rest : List Input}

/-! ### The write-only commands -/

/-- A write-only command of the default table ends with `OK` and `none` after its settle ticks (40_core.md R164, R168, R169). -/
theorem exec_writeOnly (hr : s.ready = true) (he : lookup commandTable i.id = some e) (hk : e.rk = .none)
    (hm : settle e (encode i) ≤ m) (hi : s.inputs = settled x m rest) :
    exec i s = .next (wrote s i.id i.arg0 i.arg1 i.arg2 (encode i) x rest) := by
  have hsettle : settle e (encode i) < 2 ^ 32 := (settle_le he _).trans_lt (by norm_num)
  obtain ⟨e', he', hf⟩ := lookup_id i
  obtain rfl : e' = e := Option.some.inj (he'.symm.trans he)
  rw [← execWith_default]
  exact Builds.execWith_settled (G := defaultParams) hr he hf.symm hk hm hsettle hi

/-- The mode byte is 1 or 0 by bit 0 of the argument (30_encoding.md R115). -/
theorem modeBit_eq_ite (v : Word) : modeBit v = if v.getLsbD 0 then 1 else 0 := by
  obtain ⟨-, -, hmode⟩ := Encoding.frameBytesTruncateTheArgument v
  have hbit : v.getLsbD 0 = decide (v.toNat % 2 = 1) := Nat.testBit_zero v.toNat
  apply BitVec.eq_of_toNat_eq
  rw [hmode, hbit]
  rcases Nat.mod_two_eq_zero_or_one v.toNat with h | h <;> rw [h] <;> rfl

/-- Settles O24: three write-only rows without a settle wait; the mode byte of `pin_mode` is bit 0 of its argument. -/
theorem gpioWritesComplete : Obligations.GpioWritesComplete := by
  intro s a0 a1 a2 x m rest hr hi
  rw [← modeBit_eq_ite]
  exact ⟨exec_writeOnly (i := .digitalWrite a0 a1 a2) hr rfl rfl m.zero_le hi,
    exec_writeOnly (i := .analogWrite a0 a1 a2) hr rfl rfl m.zero_le hi,
    exec_writeOnly (i := .pinMode a0 a1 a2) hr rfl rfl m.zero_le hi⟩

/-! ### The model selector -/

/-- Settles O54: the selection by the value of the selector's low byte, and the three names by evaluation of the syntax. -/
theorem modelSelectsTheCoefficient : Obligations.ModelSelectsTheCoefficient := by
  refine ⟨fun m => ?_, rfl, rfl, rfl⟩
  rw [Builds.bsel_eq]
  split <;> rfl

end Sys2Proof.Proofs.Gpio

/-! PROOFS. The statement about the LED bar's writes: six write-only commands of the default table, none with a settle wait
(43_ledbar.md R260 to R265). -/

namespace Sys2Proof.Proofs.LedBar

open Sys2Proof.Machine Sys2Proof.Claims Sys2Proof.Proofs.Gpio

/-- Settles O31: each row reads nothing and settles for no tick, so any number of ticks after the acknowledge ends the command with its
own frame: `LPVW` for `ledbar_set_one`, `LPLH` for the 16-bit mask of `ledbar_set`, `LPV` for the others. -/
theorem ledBarWritesComplete : Obligations.LedBarWritesComplete := by
  intro s a0 a1 a2 x m rest hr hi
  exact ⟨exec_writeOnly (i := .ledbarInit a0 a1 a2) hr rfl rfl m.zero_le hi,
    exec_writeOnly (i := .ledbarOrient a0 a1 a2) hr rfl rfl m.zero_le hi,
    exec_writeOnly (i := .ledbarLevel a0 a1 a2) hr rfl rfl m.zero_le hi,
    exec_writeOnly (i := .ledbarSetOne a0 a1 a2) hr rfl rfl m.zero_le hi,
    exec_writeOnly (i := .ledbarToggleOne a0 a1 a2) hr rfl rfl m.zero_le hi,
    exec_writeOnly (i := .ledbarSet a0 a1 a2) hr rfl rfl m.zero_le hi⟩

end Sys2Proof.Proofs.LedBar

/-! PROOFS. The statement about the four-digit display: nine write-only commands of the default table, the monitor mode aside
(44_four_digit.md R280 to R286, R288, R289). -/

namespace Sys2Proof.Proofs.FourDigit

open Sys2Proof.Machine Sys2Proof.Claims Sys2Proof.Proofs.Gpio

/-- Settles O33: each row reads nothing; that of `fd_init` settles for no tick, and the settle count of the other eight is the 51 ticks
of a delay of 50 ms (40_core.md R166). -/
theorem fourDigitWritesComplete : Obligations.FourDigitWritesComplete := by
  intro s a0 a1 a2 x m rest hr hi
  refine ⟨exec_writeOnly (i := .fdInit a0 a1 a2) hr rfl rfl m.zero_le hi, fun hm => ?_⟩
  exact ⟨exec_writeOnly (i := .fdBrightness a0 a1 a2) hr rfl rfl hm hi,
    exec_writeOnly (i := .fdValue a0 a1 a2) hr rfl rfl hm hi,
    exec_writeOnly (i := .fdValueZeros a0 a1 a2) hr rfl rfl hm hi,
    exec_writeOnly (i := .fdDigit a0 a1 a2) hr rfl rfl hm hi,
    exec_writeOnly (i := .fdSegment a0 a1 a2) hr rfl rfl hm hi,
    exec_writeOnly (i := .fdScore a0 a1 a2) hr rfl rfl hm hi,
    exec_writeOnly (i := .fdAllOn a0 a1 a2) hr rfl rfl hm hi,
    exec_writeOnly (i := .fdAllOff a0 a1 a2) hr rfl rfl hm hi⟩

end Sys2Proof.Proofs.FourDigit

/-! PROOFS. The statement about the chainable RGB LEDs: six write-only commands of the default table, all with the same settle wait
(45_rgb_led.md R300 to R305). -/

namespace Sys2Proof.Proofs.RgbLed

open Sys2Proof.Machine Sys2Proof.Claims Sys2Proof.Proofs.Gpio

/-- Settles O35: each row reads nothing and settles for the 51 ticks of a delay of 50 ms (40_core.md R166), so the command ends with its
own frame: `LPV` for `rgb_init`, three argument bytes for the others; in `rgb_store_color` the first of them is the red value. -/
theorem rgbWritesComplete : Obligations.RgbWritesComplete := by
  intro s a0 a1 a2 x m rest hr hm hi
  exact ⟨exec_writeOnly (i := .rgbStoreColor a0 a1 a2) hr rfl rfl hm hi,
    exec_writeOnly (i := .rgbInit a0 a1 a2) hr rfl rfl hm hi,
    exec_writeOnly (i := .rgbTest a0 a1 a2) hr rfl rfl hm hi,
    exec_writeOnly (i := .rgbPattern a0 a1 a2) hr rfl rfl hm hi,
    exec_writeOnly (i := .rgbModulo a0 a1 a2) hr rfl rfl hm hi,
    exec_writeOnly (i := .rgbLevel a0 a1 a2) hr rfl rfl hm hi⟩

end Sys2Proof.Proofs.RgbLed

/-! PROOFS. The statement about the IR receive pin and the dust, encoder and flow switches: seven write-only commands of the default
table (46_ir_dust_encoder_flow.md R321, R323, R324, R326, R327, R329, R330). -/

namespace Sys2Proof.Proofs.SensorSwitches

open Sys2Proof.Machine Sys2Proof.Claims Sys2Proof.Proofs.Gpio

/-- Settles O36: each row reads nothing; that of `ir_recv_pin` settles for no tick and sends its pin, and the settle count of the six
enables and disables is the 201 ticks of a delay of 200 ms (40_core.md R166), their frames carrying no argument byte. -/
theorem sensorSwitchesComplete : Obligations.SensorSwitchesComplete := by
  intro s a0 a1 a2 x m rest hr hi
  refine ⟨exec_writeOnly (i := .irRecvPin a0 a1 a2) hr rfl rfl m.zero_le hi, fun hm => ?_⟩
  exact ⟨exec_writeOnly (i := .dustEn a0 a1 a2) hr rfl rfl hm hi,
    exec_writeOnly (i := .dustDis a0 a1 a2) hr rfl rfl hm hi,
    exec_writeOnly (i := .encEn a0 a1 a2) hr rfl rfl hm hi,
    exec_writeOnly (i := .encDis a0 a1 a2) hr rfl rfl hm hi,
    exec_writeOnly (i := .flowEn a0 a1 a2) hr rfl rfl hm hi,
    exec_writeOnly (i := .flowDis a0 a1 a2) hr rfl rfl hm hi⟩

end Sys2Proof.Proofs.SensorSwitches
